-- ==== Sys2Proof/Word.lean ====
section
/-! DEFINITION. The words of the block: bytes, line levels, the two colours of ink and the four address spaces. -/
namespace Sys2Proof

/-- Every value the block moves is one byte (R45, 20_memory.md): samples, plane bytes, commands, parameters. -/
abbrev Byte := BitVec 8

/-- The level of a digital line (R73, 30_encoding.md). -/
inductive Level where
  | low
  | high
deriving DecidableEq, Repr

/-- The two planes: index 0 black, index 1 red (R6, 00_scope.md; R13). -/
inductive Colour where
  | black
  | red
deriving DecidableEq, Repr

/-- The four data address spaces (R39, 20_memory.md). -/
inductive Space where
  | rasterK
  | rasterR
  | planeK
  | planeR
deriving DecidableEq, Repr

/-- The RASTER space of a colour (R39). -/
def Colour.rasterSpace : Colour → Space
  | .black => .rasterK
  | .red => .rasterR

/-- The PLANE space of a colour (R39). -/
def Colour.planeSpace : Colour → Space
  | .black => .planeK
  | .red => .planeR

end Sys2Proof
end

