-- ==== Sys2Proof/Config.lean ====
section
/-! DEFINITION. What is fixed for the block (R6, R7, R8 of 00_scope.md) and the values the spec leaves open. -/
namespace Sys2Proof

/-- A clock edge of the SPI channel (R6, `SPI_SAMPLE_EDGE`). -/
inductive Edge where
  | leading
  | trailing
deriving DecidableEq, Repr

/-- The parameters of the block, one field for each row of the table of R6, and the open bytes of R7.
The literals are unaudited (R2), so each stands here once, by name. -/
structure Config where
  /-- `W`, width in pixels. -/
  width : Nat
  /-- `H`, height in rows. -/
  height : Nat
  sampleBits : Nat
  /-- `T`, the luminance threshold. -/
  threshold : Nat
  /-- `GROUP`, pixels in one output byte. -/
  group : Nat
  nPlanes : Nat
  paperBit : BitVec 1
  inkBit : BitVec 1
  whiteByte : Byte
  inkByte : Byte
  dcCommand : Level
  dcData : Level
  busyReady : Nat
  busyBusy : Nat
  settleMs : Nat
  pollMs : Nat
  spiHz : Nat
  spiWordBits : Nat
  spiMsbFirst : Bool
  spiClkIdle : Level
  spiSampleEdge : Edge
  cmdPanelSetting : Byte
  cmdPowerOff : Byte
  cmdPowerOn : Byte
  cmdBoosterSoftStart : Byte
  cmdDeepSleep : Byte
  cmdDataBlack : Byte
  cmdDisplayRefresh : Byte
  cmdDataRed : Byte
  deepSleepCheck : Byte
  /-- The first ink row of PRINT_TRICOLOR's black plane (R138). -/
  tricolorBlackRow : Nat
  /-- The first ink row of PRINT_TRICOLOR's red plane (R138). -/
  tricolorRedRow : Nat
  btstP0 : Byte
  btstP1 : Byte
  btstP2 : Byte
  psrP0 : Byte
deriving DecidableEq, Repr

/-- `BPR`, bytes in a bitmap row (R6, derived there from `W` and `GROUP`). -/
def Config.bytesPerRow (c : Config) : Nat := c.width / c.group

/-- `PLANE_BYTES` (R6, derived there from `BPR` and `H`). -/
def Config.planeBytes (c : Config) : Nat := c.bytesPerRow * c.height

/-- A configuration is well formed (R8, 00_scope.md). -/
def Config.wellFormed (c : Config) : Bool :=
  decide (0 < c.width) && decide (0 < c.height) && c.width % c.group == 0 && c.group == 8 &&
    c.sampleBits == 8 && decide (c.threshold ≤ 255)

/-! The values with no body: nothing in Lean can evaluate them, so no proof can rest on what they are. -/

/-- `BTST_P0`, open (R7, D30). -/
opaque Config.openBtstP0 : Byte
/-- `BTST_P1`, open (R7, D30). -/
opaque Config.openBtstP1 : Byte
/-- `BTST_P2`, open (R7, D30). -/
opaque Config.openBtstP2 : Byte
/-- `PSR_P0`, open (R7, D30). -/
opaque Config.openPsrP0 : Byte
/-- Whether the platform's `k`-th free answer is an error (R109, R110, R114, R133: a draw). -/
opaque Config.drawFails : Nat → Bool
/-- The platform's own error value of its `k`-th free answer (R147: passed on, never inspected). -/
opaque Config.drawError : Nat → Nat
/-- The number in the `k`-th free answer: a busy sample (R114) or a count of bytes written (R110). -/
opaque Config.drawNumber : Nat → Nat
/-- What an unlisted byte of an address space reads as: a plane byte outside its operation (R37, R59), a sample
HOST has not supplied (R177). -/
opaque Config.unwritten : Space → Nat → Byte
/-- A free number for a working register of ENC outside an invocation (R37, R104). -/
opaque Config.freeNumber : Nat → Nat
/-- A free byte for ENC's accumulator outside an invocation (R37, R104). -/
opaque Config.freeByte : Nat → Byte

/-- The block of this spec: the values of R6, with the open bytes of R7. -/
def Config.hw : Config where
  width := 400
  height := 300
  sampleBits := 8
  threshold := 128
  group := 8
  nPlanes := 2
  paperBit := 1
  inkBit := 0
  whiteByte := 0xFF
  inkByte := 0x00
  dcCommand := .low
  dcData := .high
  busyReady := 1
  busyBusy := 0
  settleMs := 200
  pollMs := 200
  spiHz := 4000000
  spiWordBits := 8
  spiMsbFirst := true
  spiClkIdle := .low
  spiSampleEdge := .leading
  cmdPanelSetting := 0x00
  cmdPowerOff := 0x02
  cmdPowerOn := 0x04
  cmdBoosterSoftStart := 0x06
  cmdDeepSleep := 0x07
  cmdDataBlack := 0x10
  cmdDisplayRefresh := 0x12
  cmdDataRed := 0x13
  deepSleepCheck := 0xA5
  tricolorBlackRow := 100
  tricolorRedRow := 200
  btstP0 := Config.openBtstP0
  btstP1 := Config.openBtstP1
  btstP2 := Config.openBtstP2
  psrP0 := Config.openPsrP0

end Sys2Proof
end

