-- ==== Sys2Proof/Syntax.lean ====
section
/-! DEFINITION. The instructions: one constructor for each row of spec/opcode_table.json, and the encoded form of a
call, which the decoder reads. -/
namespace Sys2Proof

/-- A raster operand (R75, 30_encoding.md): its declared width and height, with no upper bound. Its samples stand in
the RASTER space of `space` (R39, 20_memory.md). -/
structure RasterArg where
  space : Colour
  w : Nat
  h : Nat
deriving DecidableEq, Repr

/-- The plane a data command sends (R125, R127 of 41_transmit_primitives.md): WHITE_PLANE (R92), STRIPE_PLANE of a row
count (R93), or the encoding of a raster (R94). -/
inductive PlaneSource where
  | white
  | stripe (n : Nat)
  | encoded (r : RasterArg)
deriving DecidableEq, Repr

/-- The instructions. The first eight are the panel commands of R69, the other twelve the host operations of R76. -/
inductive Instr where
  /-- 0x00 panel setting (R120). -/
  | panelSetting
  /-- 0x02 power off, then WAIT_BUSY (R121). -/
  | powerOff
  /-- 0x04 power on, then WAIT_BUSY (R122). -/
  | powerOn
  /-- 0x06 booster soft start (R123). -/
  | boosterSoftStart
  /-- 0x07 deep sleep (R124). -/
  | deepSleep
  /-- 0x10 black-plane data (R125). -/
  | dataBlack (p : PlaneSource)
  /-- 0x12 display refresh, then WAIT_BUSY (R126). -/
  | displayRefresh
  /-- 0x13 red-plane data (R127). -/
  | dataRed (p : PlaneSource)
  /-- INITIALIZE (R133). -/
  | initialise
  /-- RESET, the panel reset pulse (R134). -/
  | reset
  /-- SEND_COMMAND_BYTE (R111). -/
  | sendCommandByte (code : Byte)
  /-- SEND_DATA_BYTE (R112). -/
  | sendDataByte (value : Byte)
  /-- SEND_DATA (R113). -/
  | sendData (bytes : List Byte)
  /-- WAIT_BUSY (R115). -/
  | waitBusy
  /-- FIRST_SEQUENCE (R135). -/
  | firstSequence
  /-- CLEAR_DISPLAY (R136). -/
  | clearDisplay
  /-- PRINT_TRICOLOR (R137). -/
  | printTricolor
  /-- PRINT_IMAGE (R139). -/
  | printImage (raster : RasterArg) (red : Option RasterArg)
  /-- CLOSE (R142). -/
  | close
  /-- ENCODE_PLANE (R97). -/
  | encodePlane (raster : RasterArg)
deriving DecidableEq, Repr

/-- The operands of a call, in the shapes of R76's table: bytes, raster operands, and the plane of a data command. -/
structure Args where
  bytes : List Byte
  rasters : List RasterArg
  source : Option PlaneSource
deriving DecidableEq, Repr

/-- An encoded call. The table has two formats: HOST_OP, a 4-bit code of the spec's own numbering (R61, R76), and
PANEL_CMD, an 8-bit command byte sent with DC low (R66, R68). -/
inductive Call where
  | hostOp (op : BitVec 4) (args : Args)
  | panelCmd (code : Byte) (args : Args)
deriving DecidableEq, Repr

/-- Why the decoder rejects a call. -/
inductive Reject where
  /-- Operation codes 0xC to 0xF select nothing (R78). -/
  | reservedOperation (op : BitVec 4)
  /-- A command byte outside the eight of R69 has no meaning (R72). -/
  | reservedCommand (code : Byte)
  /-- The operands are not of the shape the table gives the row (R76). -/
  | operandShape
  /-- The operands name a space or a row count the row cannot have (`Instr.wellFormed`). -/
  | illFormed
deriving DecidableEq, Repr

end Sys2Proof
end

