-- ==== Sys2Proof/WellFormed.lean ====
section
/-! DEFINITION. Which instructions are well formed. A wrong declared size is not ill-formed: it is the run-time error
SizeMismatch (R95). -/
namespace Sys2Proof

/-- The plane of a data command for one colour: a stripe's row count is at most `H` (R93); an encoded plane comes
from that colour's raster (R39, R94). -/
def PlaneSource.wellFormed (colour : Colour) : PlaneSource → Bool
  | .white => true
  | .stripe n => decide (n ≤ Config.hw.height)
  | .encoded r => r.space == colour

/-- The black plane is made from RASTER_K and the red plane from RASTER_R (R39, R94); ENCODE_PLANE works on either
(R39). Every byte and every declared size is well formed (R62, R72, R75). -/
def Instr.wellFormed : Instr → Bool
  | .panelSetting => true
  | .powerOff => true
  | .powerOn => true
  | .boosterSoftStart => true
  | .deepSleep => true
  | .dataBlack p => p.wellFormed .black
  | .displayRefresh => true
  | .dataRed p => p.wellFormed .red
  | .initialise => true
  | .reset => true
  | .sendCommandByte _ => true
  | .sendDataByte _ => true
  | .sendData _ => true
  | .waitBusy => true
  | .firstSequence => true
  | .clearDisplay => true
  | .printTricolor => true
  | .printImage r red => r.space == .black && red.all (fun q => q.space == .red)
  | .close => true
  | .encodePlane _ => true

end Sys2Proof
end

