-- ==== Sys2Proof/Decode.lean ====
section
/-! DEFINITION. The decoder of calls, total, rejecting by name; the encoder; and the reading of a number as a row of
spec/opcode_table.json. -/
namespace Sys2Proof

/-- No operands. -/
def Args.empty : Args := ⟨[], [], none⟩

/-- A row with no operand. -/
def withNone (a : Args) (i : Instr) : Except Reject Instr :=
  if a = Args.empty then .ok i else .error .operandShape

/-- A row with one byte operand (R77: used as it is). -/
def withByte (a : Args) (f : Byte → Instr) : Except Reject Instr :=
  match a with
  | ⟨[b], [], none⟩ => .ok (f b)
  | _ => .error .operandShape

/-- A row with a byte sequence of any length (R77: used as it is, in order). -/
def withBytes (a : Args) (f : List Byte → Instr) : Except Reject Instr :=
  match a with
  | ⟨bs, [], none⟩ => .ok (f bs)
  | _ => .error .operandShape

/-- A row with one raster operand. -/
def withRaster (a : Args) (f : RasterArg → Instr) : Except Reject Instr :=
  match a with
  | ⟨[], [r], none⟩ => .ok (f r)
  | _ => .error .operandShape

/-- A row with a raster operand and an optional second one. -/
def withRasters (a : Args) (f : RasterArg → Option RasterArg → Instr) : Except Reject Instr :=
  match a with
  | ⟨[], [r], none⟩ => .ok (f r none)
  | ⟨[], [r, q], none⟩ => .ok (f r (some q))
  | _ => .error .operandShape

/-- A row with a plane. -/
def withSource (a : Args) (f : PlaneSource → Instr) : Except Reject Instr :=
  match a with
  | ⟨[], [], some p⟩ => .ok (f p)
  | _ => .error .operandShape

/-- The host operations by their 4-bit code (R76). -/
def decodeHost (op : BitVec 4) (a : Args) : Except Reject Instr :=
  match op.toNat with
  | 0x0 => withNone a .initialise
  | 0x1 => withNone a .reset
  | 0x2 => withByte a .sendCommandByte
  | 0x3 => withByte a .sendDataByte
  | 0x4 => withBytes a .sendData
  | 0x5 => withNone a .waitBusy
  | 0x6 => withNone a .firstSequence
  | 0x7 => withNone a .clearDisplay
  | 0x8 => withNone a .printTricolor
  | 0x9 => withRasters a .printImage
  | 0xA => withNone a .close
  | 0xB => withRaster a .encodePlane
  | _ => .error (.reservedOperation op)

/-- The panel commands by their command byte (R69), each byte a named parameter (R2, R6). -/
def decodePanel (code : Byte) (a : Args) : Except Reject Instr :=
  if code = Config.hw.cmdPanelSetting then withNone a .panelSetting
  else if code = Config.hw.cmdPowerOff then withNone a .powerOff
  else if code = Config.hw.cmdPowerOn then withNone a .powerOn
  else if code = Config.hw.cmdBoosterSoftStart then withNone a .boosterSoftStart
  else if code = Config.hw.cmdDeepSleep then withNone a .deepSleep
  else if code = Config.hw.cmdDataBlack then withSource a .dataBlack
  else if code = Config.hw.cmdDisplayRefresh then withNone a .displayRefresh
  else if code = Config.hw.cmdDataRed then withSource a .dataRed
  else .error (.reservedCommand code)

/-- Reject an instruction that is not well formed. -/
def checked (i : Instr) : Except Reject Instr := if i.wellFormed then .ok i else .error .illFormed

/-- The decoder. -/
def decode : Call → Except Reject Instr
  | .hostOp op a => (decodeHost op a).bind checked
  | .panelCmd code a => (decodePanel code a).bind checked

/-- The encoder, from the tables of R69 and R76. -/
def encode : Instr → Call
  | .panelSetting => .panelCmd Config.hw.cmdPanelSetting .empty
  | .powerOff => .panelCmd Config.hw.cmdPowerOff .empty
  | .powerOn => .panelCmd Config.hw.cmdPowerOn .empty
  | .boosterSoftStart => .panelCmd Config.hw.cmdBoosterSoftStart .empty
  | .deepSleep => .panelCmd Config.hw.cmdDeepSleep .empty
  | .dataBlack p => .panelCmd Config.hw.cmdDataBlack ⟨[], [], some p⟩
  | .displayRefresh => .panelCmd Config.hw.cmdDisplayRefresh .empty
  | .dataRed p => .panelCmd Config.hw.cmdDataRed ⟨[], [], some p⟩
  | .initialise => .hostOp 0x0 .empty
  | .reset => .hostOp 0x1 .empty
  | .sendCommandByte b => .hostOp 0x2 ⟨[b], [], none⟩
  | .sendDataByte b => .hostOp 0x3 ⟨[b], [], none⟩
  | .sendData bs => .hostOp 0x4 ⟨bs, [], none⟩
  | .waitBusy => .hostOp 0x5 .empty
  | .firstSequence => .hostOp 0x6 .empty
  | .clearDisplay => .hostOp 0x7 .empty
  | .printTricolor => .hostOp 0x8 .empty
  | .printImage r red => .hostOp 0x9 ⟨[], r :: red.toList, none⟩
  | .close => .hostOp 0xA .empty
  | .encodePlane r => .hostOp 0xB ⟨[], [r], none⟩

/-- Byte `n` of a number whose first byte is its least significant one. -/
def wordByte (w n : Nat) : Byte := BitVec.ofNat 8 (w / 256 ^ n)

/-- The bytes of `w` after its first, as many as `nbits` counts. -/
def wordTail (nbits w : Nat) : List Byte := (List.range ((nbits + 7) / 8 - 1)).map fun n => wordByte w (n + 1)

/-- The operands a host operation takes from the bytes after its code; every operand the number does not reach is
zero (a raster of size 0 by 0 in RASTER_K). DESIGN CHOICE, log 8. -/
def hostArgs (op : Nat) (tail : List Byte) : Args :=
  match op with
  | 0x2 => ⟨[tail.headD 0], [], none⟩
  | 0x3 => ⟨[tail.headD 0], [], none⟩
  | 0x4 => ⟨tail, [], none⟩
  | 0x9 => ⟨[], [⟨.black, 0, 0⟩], none⟩
  | 0xB => ⟨[], [⟨.black, 0, 0⟩], none⟩
  | _ => .empty

/-- The operands of a panel command: a data command whose plane is all zero bytes sends STRIPE_PLANE(0) (R93). The command
bytes are the named parameters (R2, R6). -/
def panelArgs (code : Byte) : Args :=
  if code = Config.hw.cmdDataBlack ∨ code = Config.hw.cmdDataRed then ⟨[], [], some (.stripe 0)⟩ else .empty

/-- The call a table number stands for. The table's two formats share the numbers 0x00, 0x02, 0x04, 0x06 and 0x07;
a first byte below 0x10 is read as a host operation, which is what HOST issues (R76). DESIGN CHOICE, log 8. -/
def tableCall (nbits w : Nat) : Call :=
  if w % 256 < 16 then .hostOp (BitVec.ofNat 4 (w % 256)) (hostArgs (w % 256) (wordTail nbits w))
  else .panelCmd (BitVec.ofNat 8 (w % 256)) (panelArgs (BitVec.ofNat 8 (w % 256)))

/-- What the decoder reads from the number `w` of `nbits` bits. -/
def decodeTableWord (nbits w : Nat) : Option Instr := (decode (tableCall nbits w)).toOption

end Sys2Proof
end

