-- ==== Sys2Proof/Machine/State.lean ====
section
/-! DEFINITION. The machine's state: what the spec gives the block, the inputs its environment offers it, and the
histories of what it did. Plain data. -/
namespace Sys2Proof.Machine

/-- One address space: address and byte, addresses strictly rising (`Memory.wf`). An unlisted byte holds no defined
value and reads as `Config.unwritten` (R37, R59, R177). -/
abbrev Memory := List Host.Cell

/-! ## What passes the boundary -/

/-- The three GPIO lines (R73). -/
inductive Line where
  | busy
  | rst
  | dc
deriving DecidableEq, Repr

/-- The two output lines (R109). -/
inductive OutLine where
  | rst
  | dc
deriving DecidableEq, Repr

inductive Direction where
  | input
  | output
deriving DecidableEq, Repr

/-- The platform's answer to a GPIO write, an acquisition or a direction-set (R109, R133). -/
inductive CallAnswer where
  | ok
  | err (e : Nat)
deriving DecidableEq, Repr

/-- The platform's answer to an SPI transaction (R110). -/
inductive SpiAnswer where
  | ok (n : Nat)
  | err (e : Nat)
deriving DecidableEq, Repr

/-- The answer to one reading of the busy line (R114): a natural number, or the platform's error. -/
inductive BusyAnswer where
  | level (v : Nat)
  | err (e : Nat)
deriving DecidableEq, Repr

/-- The one configuration of the SPI channel (R67, R133). -/
structure SpiFormat where
  hz : Nat
  wordBits : Nat
  msbFirst : Bool
  clkIdle : Level
  sampleEdge : Edge
deriving DecidableEq, Repr

/-- The events of the wire history (R32, R33). -/
inductive Event where
  | exported (l : Line)
  | direction (l : Line) (d : Direction)
  | spiConfig (f : SpiFormat)
  | rst (l : Level)
  | dc (l : Level)
  | spi (bytes : List Byte) (answer : SpiAnswer)
  | busy (v : Nat)
  | sleep (ms : Nat)
  | partialWrite (requested written : Nat)
deriving DecidableEq, Repr

/-- What ENC gives on its channels (R100): BYTE_OUT and DONE. -/
inductive EncOut where
  | byteOut (v : Byte)
  | done
deriving DecidableEq, Repr

/-- The four error kinds (R147). -/
inductive ErrorKind where
  | resourceUnavailable
  | unexpectedSignal
  | sizeMismatch
  | transport
deriving DecidableEq, Repr

/-- An error as it is returned to HOST, with the information R147 records. -/
inductive Error where
  | resourceUnavailable
  | unexpectedSignal (v : Nat)
  | sizeMismatch (w h : Nat)
  | transport (e : Nat)
deriving DecidableEq, Repr

/-- What an operation returns to HOST (R16, R79): Ok, Ok with a plane as its rows (ENCODE_PLANE), or one error. -/
inductive OpResult where
  | ok
  | okPlane (rows : List (List Byte))
  | error (e : Error)
deriving DecidableEq, Repr

/-! ## Registers -/

/-- The level last written to a line, or unknown before the first write (R28, R29). -/
inductive LastLevel where
  | unknown
  | low
  | high
deriving DecidableEq, Repr

/-- The lifecycle values (R30, R131). -/
inductive Life where
  | constructed
  | unusable
  | ready
  | resetDone
  | sequenced
  | closed
deriving DecidableEq, Repr

/-- The working registers of ENC (R22, R23, R24). `plane` is the model's own: which PLANE space a running stream
writes, where R103 writes "PLANE". -/
structure Enc where
  row : Nat
  grp : Nat
  j : Nat
  acc : Byte
  active : Bool
  plane : Colour
deriving DecidableEq, Repr

/-- The state of SEQ (R28, R29, R30, R31). The four resource handles are folded into `life` (R27). -/
structure Seq where
  dc : LastLevel
  rst : LastLevel
  life : Life
  err : Option ErrorKind
deriving DecidableEq, Repr

/-- The operations that contain WAIT_BUSY (R183) and the three panel commands that are followed by it. -/
inductive Waiting where
  | waitBusy
  | powerOff
  | powerOn
  | displayRefresh
  | firstSequence
  | clearDisplay
  | printTricolor
  | printImage
  | close
deriving DecidableEq, Repr

/-- An operation in progress: it stands in its WAIT_BUSY (R117). `start` is the length the wire history had when the
operation was issued, by which R132 tells whether it has emitted an event. -/
structure Pending where
  op : Waiting
  start : Nat
deriving DecidableEq, Repr

/-! ## Inputs (R17): not state of the block, held here because a step is a function of `State` alone -/

/-- What HOST does: it issues an operation, waits for the return of the one in progress (R16), supplies a raster between
operations (R41, R58), or drives ENC's channels (R100). Every move but `await` is made at once, whether or not an operation is
in progress. -/
inductive HostMove where
  | call (c : Call)
  | await
  | supply (colour : Colour) (samples : List Byte)
  | start (colour : Colour) (w h : Nat)
  | pixIn (s : Byte)
deriving DecidableEq, Repr

/-- The answers of the platform and of PANEL, next first. Where none is listed the platform answers ideally if
`ideal` (R110), else by a free draw; a busy sample is then a free draw (R114), of a level alone if `ideal`, since the ideal
platform never reports an error (R151). `draws` counts the free draws taken (the model's own). -/
structure Env where
  lineAnswers : List CallAnswer
  spiAnswers : List SpiAnswer
  acquireAnswers : List Bool
  directionAnswers : List CallAnswer
  busySamples : List BusyAnswer
  ideal : Bool
  draws : Nat
deriving DecidableEq, Repr

/-! ## The state -/

/-- The state of the machine. -/
structure State where
  /-- The working registers of ENC. -/
  enc : Enc
  /-- The state of SEQ. -/
  seq : Seq
  /-- RASTER_K, owned by HOST (R39). -/
  rasterK : Memory
  /-- RASTER_R, owned by HOST (R39). -/
  rasterR : Memory
  /-- PLANE_K (R39). -/
  planeK : Memory
  /-- PLANE_R (R39). -/
  planeR : Memory
  /-- The operation in progress, if it stands in WAIT_BUSY. -/
  pending : Option Pending
  /-- What HOST does next, oldest first. -/
  inbox : List HostMove
  /-- The environment's answers. -/
  env : Env
  /-- The wire history, oldest first (R32). -/
  hist : List Event
  /-- What ENC gave on its channels, oldest first (R100). -/
  chan : List EncOut
  /-- The results returned to HOST, oldest first (R16). -/
  returns : List OpResult
  /-- The refusal mark of the run (R157). -/
  refused : Bool
  /-- Counter of the free values in ENC's registers (the model's own). -/
  fresh : Nat
deriving DecidableEq, Repr

/-- Reasons to stop: none. The spec knows no condition that stops the block: an error ends the operation and is
returned to HOST (R155), a hang goes on for ever (R169). -/
inductive Fault where
deriving DecidableEq, Repr

/-- Reasons to give no meaning. -/
inductive Refusal where
  /-- Raised by `exec` for an instruction that has no meaning yet (none). Safe: nothing can be proved of what
  follows. A call the spec refuses (R157) is not this: it answers a next state with the refusal mark. -/
  | notModelled (mnemonic : String)
deriving DecidableEq, Repr

/-- The environment before anything is known of it: no answer listed, every answer a free draw. -/
def Env.free : Env := ⟨[], [], [], [], [], false, 0⟩

/-- The block when it comes into existence (R37 of 10_state.md, R172 of 70_reset_and_hazards.md). ENC's working registers
are unspecified there; the zeros are DESIGN CHOICE, log 10. -/
def State.reset : State where
  enc := ⟨0, 0, 0, 0, false, .black⟩
  seq := ⟨.unknown, .unknown, .constructed, none⟩
  rasterK := []
  rasterR := []
  planeK := []
  planeR := []
  pending := none
  inbox := []
  env := Env.free
  hist := []
  chan := []
  returns := []
  refused := false
  fresh := 0

/-- How a sequence of steps of SEQ ends: all steps done, or the first error raised (R155). -/
inductive Run where
  | ok (s : State)
  | raised (e : Error) (s : State)

/-- What polling the busy line gives (R115): ready, sample again, or an error. -/
inductive Poll where
  | ready (s : State)
  | again (s : State)
  | raised (e : Error) (s : State)

end Sys2Proof.Machine
end

