-- ==== Sys2Proof/Machine/Flags.lean ====
section
/-! DEFINITION. The status the block reports. It has no condition flags (R31); what it has is the result of each
operation, the sticky error record `seq.err` and the refusal mark of the run. -/
namespace Sys2Proof.Machine

/-- The kind of an error (R147). -/
def Error.kind : Error → ErrorKind
  | .resourceUnavailable => .resourceUnavailable
  | .unexpectedSignal _ => .unexpectedSignal
  | .sizeMismatch _ _ => .sizeMismatch
  | .transport _ => .transport

/-- The numeric code of `seq.err` (R153). The numbers carry no meaning and no rule depends on them. -/
def errorCode : Option ErrorKind → Nat
  | none => 0
  | some .resourceUnavailable => 1
  | some .unexpectedSignal => 2
  | some .sizeMismatch => 3
  | some .transport => 4

/-- The sticky record after an error (R170): the first kind, never cleared. -/
def stickyErr (old : Option ErrorKind) (e : Error) : Option ErrorKind :=
  match old with
  | none => some e.kind
  | some k => some k

/-- Record an error in `seq.err` (R170). -/
def noteError (e : Error) (s : State) : State := { s with seq := { s.seq with err := stickyErr s.seq.err e } }

/-- Give an operation's result to HOST; no operation is in progress afterwards (R16, R79). -/
def giveBack (r : OpResult) (s : State) : State := { s with returns := s.returns ++ [r], pending := none }

/-- Refusal (R157): no event, no state change, no error, no result; the run's refusal mark is set. -/
def refuse (s : State) : State := { s with refused := true }

end Sys2Proof.Machine
end

