-- ==== Sys2Proof/Machine/Ops.lean ====
section
/-! DEFINITION. The shared operations: the address spaces, the environment's answers, events and lines, the admission of an
operation, and what an error does (the block's exception entry, R155). -/
namespace Sys2Proof.Machine

/-! ## Address spaces -/

/-- The canonical form: addresses strictly rising. -/
def Memory.wf : Memory → Bool
  | [] => true
  | [_] => true
  | (a, _) :: (a', b') :: m => decide (a < a') && Memory.wf ((a', b') :: m)

/-- The byte listed at an address. -/
def Memory.find (m : Memory) (a : Nat) : Option Byte :=
  match m with
  | [] => none
  | (a', b) :: m => if a = a' then some b else Memory.find m a

/-- MemWrite of one byte (R11, R49). -/
def Memory.write (m : Memory) (a : Nat) (b : Byte) : Memory :=
  match m with
  | [] => [(a, b)]
  | (a', b') :: m =>
    if a < a' then (a, b) :: (a', b') :: m
    else if a = a' then (a, b) :: m
    else (a', b') :: Memory.write m a b

/-- The bytes written one after the other at ascending addresses. -/
def Memory.writeAll (m : Memory) (a : Nat) (bs : List Byte) : Memory :=
  match bs with
  | [] => m
  | b :: bs => Memory.writeAll (Memory.write m a b) (a + 1) bs

/-- The memory of a space. -/
def memOf (sp : Space) (s : State) : Memory :=
  match sp with
  | .rasterK => s.rasterK
  | .rasterR => s.rasterR
  | .planeK => s.planeK
  | .planeR => s.planeR

/-- Replace the memory of a space. -/
def setMem (sp : Space) (m : Memory) (s : State) : State :=
  match sp with
  | .rasterK => { s with rasterK := m }
  | .rasterR => { s with rasterR := m }
  | .planeK => { s with planeK := m }
  | .planeR => { s with planeR := m }

/-- MemRead of one byte (R11): the listed byte, or the free value of an unlisted address. -/
def readByte (sp : Space) (s : State) (a : Nat) : Byte :=
  match Memory.find (memOf sp s) a with
  | some b => b
  | none => Config.unwritten sp a

/-! ## The environment's answers (R17) -/

/-- A free answer of the platform to a call. -/
def drawCall (k : Nat) : CallAnswer := if Config.drawFails k then .err (Config.drawError k) else .ok

/-- A free answer of the platform to an SPI transaction. -/
def drawSpi (k : Nat) : SpiAnswer := if Config.drawFails k then .err (Config.drawError k) else .ok (Config.drawNumber k)

/-- A free busy sample (R114). -/
def drawBusy (k : Nat) : BusyAnswer := if Config.drawFails k then .err (Config.drawError k) else .level (Config.drawNumber k)

/-- One free draw taken. -/
def Env.drawn (v : Env) : Env := { v with draws := v.draws + 1 }

/-- The platform's answer to the next GPIO write (R109). -/
def Env.lineAnswer (v : Env) : CallAnswer :=
  match v.lineAnswers with
  | a :: _ => a
  | [] => if v.ideal then .ok else drawCall v.draws

/-- The environment after it. -/
def Env.afterLine (v : Env) : Env :=
  match v.lineAnswers with
  | _ :: rest => { v with lineAnswers := rest }
  | [] => if v.ideal then v else v.drawn

/-- R110: a count of bytes written is at most the number requested. -/
def SpiAnswer.clamp (len : Nat) : SpiAnswer → SpiAnswer
  | .ok n => .ok (min n len)
  | .err e => .err e

/-- The platform's answer to the next SPI transaction of `len` bytes (R110). -/
def Env.spiAnswer (v : Env) (len : Nat) : SpiAnswer :=
  match v.spiAnswers with
  | a :: _ => a.clamp len
  | [] => if v.ideal then .ok len else (drawSpi v.draws).clamp len

/-- The environment after it. -/
def Env.afterSpi (v : Env) : Env :=
  match v.spiAnswers with
  | _ :: rest => { v with spiAnswers := rest }
  | [] => if v.ideal then v else v.drawn

/-- Whether the next export or SPI configuration succeeds (R133). -/
def Env.acquires (v : Env) : Bool :=
  match v.acquireAnswers with
  | a :: _ => a
  | [] => if v.ideal then true else !Config.drawFails v.draws

/-- The environment after it. -/
def Env.afterAcquire (v : Env) : Env :=
  match v.acquireAnswers with
  | _ :: rest => { v with acquireAnswers := rest }
  | [] => if v.ideal then v else v.drawn

/-- The platform's answer to the next direction-set (R133). -/
def Env.directionAnswer (v : Env) : CallAnswer :=
  match v.directionAnswers with
  | a :: _ => a
  | [] => if v.ideal then .ok else drawCall v.draws

/-- The environment after it. -/
def Env.afterDirection (v : Env) : Env :=
  match v.directionAnswers with
  | _ :: rest => { v with directionAnswers := rest }
  | [] => if v.ideal then v else v.drawn

/-- The answer to a reading of the busy line where no sample is listed (R114): a free draw. The ideal platform never reports an
error (R151), so that its draw is a level. -/
def Env.busyAnswer (v : Env) : BusyAnswer := if v.ideal then .level (Config.drawNumber v.draws) else drawBusy v.draws

/-- The state with another environment. -/
def setEnv (v : Env) (s : State) : State := { s with env := v }

/-- The state with these busy samples next. -/
def setBusy (l : List BusyAnswer) (s : State) : State := { s with env := { s.env with busySamples := l } }

/-! ## Events and lines -/

/-- `emit e` (R11): append an event to the wire history (R32). -/
def emit (e : Event) (s : State) : State := { s with hist := s.hist ++ [e] }

/-- The event of a level written (R32). -/
def lineEvent : OutLine → Level → Event
  | .rst, l => .rst l
  | .dc, l => .dc l

/-- A known level. -/
def LastLevel.ofLevel : Level → LastLevel
  | .low => .low
  | .high => .high

/-- Remember the level last written (R28, R29). -/
def setLine (l : OutLine) (lv : Level) (s : State) : State :=
  match l with
  | .rst => { s with seq := { s.seq with rst := .ofLevel lv } }
  | .dc => { s with seq := { s.seq with dc := .ofLevel lv } }

/-- Change the lifecycle value (R131). -/
def setLife (l : Life) (s : State) : State := { s with seq := { s.seq with life := l } }

/-- The next step of a sequence is taken only if all before it were done (R155). -/
def Run.andThen (r : Run) (f : State → Run) : Run :=
  match r with
  | .ok s => f s
  | .raised e s => .raised e s

/-- LINE_WRITE (R109): the event first, the level remembered only if the platform answers Ok. -/
def lineWrite (l : OutLine) (lv : Level) (s : State) : Run :=
  match s.env.lineAnswer with
  | .ok => .ok (setLine l lv (setEnv s.env.afterLine (emit (lineEvent l lv) s)))
  | .err e => .raised (.transport e) (setEnv s.env.afterLine (emit (lineEvent l lv) s))

/-- Delay (R11, R189): a lower bound, recorded as an event. -/
def delay (ms : Nat) (s : State) : State := emit (.sleep ms) s

/-! ## Admission, errors, results -/

/-- Another operation is in progress (R16): one stands in WAIT_BUSY, or ENC's stream is active (R24). -/
def inProgress (s : State) : Bool := s.pending.isSome || s.enc.active

/-- Admission of an operation (R132): in a listed lifecycle value, with no other operation in progress; else it is
refused (R157). -/
def operation (lives : List Life) (body : State → State) (s : State) : State :=
  if !inProgress s && lives.contains s.seq.life then body s else refuse s

/-- Abort, the block's exception entry (R155): nothing is undone, the lifecycle value becomes `l`, the error is recorded
and returned. -/
def abortTo (l : Life) (e : Error) (s : State) : State := giveBack (.error e) (setLife l (noteError e s))

/-- The lifecycle value after an error of an operation issued when the history had length `start` (R132): unchanged if the
operation has emitted no event, else READY. -/
def lifeAfterError (start : Nat) (s : State) : Life := if s.hist.length = start then s.seq.life else .ready

/-- Abort of every operation but INITIALIZE (R132). The return from it is HOST's next operation (R156). -/
def abort (start : Nat) (e : Error) (s : State) : State := abortTo (lifeAfterError start s) e s

/-- End an operation whose last steps are `r`: on success `f` and Ok, else the abort. -/
def settle (start : Nat) (f : State → State) (r : Run) : State :=
  match r with
  | .ok s => giveBack .ok (f s)
  | .raised e s => abort start e s

end Sys2Proof.Machine
end

