-- ==== Sys2Proof/Machine/Operands.lean ====
section
/-! DEFINITION. The operand forms: raster operands (R75, R95), their samples (R41), and the rows of a PLANE space (R42). -/
namespace Sys2Proof.Machine

/-- VALIDATE (R95): the declared dimensions are the panel's, else SizeMismatch. It reads no sample. -/
def validate (c : Config) (w h : Nat) : Option Error :=
  if w = c.width ∧ h = c.height then none else some (.sizeMismatch w h)

/-- VALIDATE of a raster operand. -/
def validateArg (c : Config) (r : RasterArg) : Option Error := validate c r.w r.h

/-- VALIDATE of an optional raster operand: only if it is present (R139). -/
def validateOpt (c : Config) (r : Option RasterArg) : Option Error :=
  match r with
  | none => none
  | some q => validateArg c q

/-- `R[y][x]` of a validated raster (R41): row-major, no padding. -/
def sample (c : Config) (colour : Colour) (s : State) (y x : Nat) : Byte :=
  readByte colour.rasterSpace s (y * c.width + x)

/-- `P[y][k]` (R42). -/
def planeByte (c : Config) (colour : Colour) (s : State) (y k : Nat) : Byte :=
  readByte colour.planeSpace s (y * c.bytesPerRow + k)

/-- The rows of a PLANE space as SEQ reads them (R119): ascending rows, ascending bytes. -/
def planeRows (c : Config) (colour : Colour) (s : State) : List (List Byte) :=
  (List.range c.height).map fun y => (List.range c.bytesPerRow).map fun k => planeByte c colour s y k

/-- A PLANE space holds no defined value any more (R59). -/
def discardPlane (colour : Colour) (s : State) : State := setMem colour.planeSpace [] s

/-- Both PLANE spaces (R59). -/
def discardPlanes (s : State) : State := discardPlane .red (discardPlane .black s)

end Sys2Proof.Machine
end

