-- ==== Sys2Proof/Machine/Encoder.lean ====
section
/-! DEFINITION. ENC, the raster encoder (40_raster_encoder.md): the function (R85 to R93), which is normative, the streaming
machine (R100 to R106), and ENCODE_PLANE (R97). -/
namespace Sys2Proof.Machine

/-! ## The function -/

/-- INK (R85): unsigned, strict. -/
def ink (c : Config) (s : Byte) : Bool := decide (s.toNat < c.threshold)

/-- BIT (R86). -/
def bit (c : Config) (s : Byte) : BitVec 1 := if ink c s then c.inkBit else c.paperBit

/-- PACK8 (R88): the first pixel's bit is the most significant one. -/
def pack8 (c : Config) (p0 p1 p2 p3 p4 p5 p6 p7 : Byte) : Byte :=
  bit c p0 ++ bit c p1 ++ bit c p2 ++ bit c p3 ++ bit c p4 ++ bit c p5 ++ bit c p6 ++ bit c p7

/-- The byte of group `k` of row `y` (R90). -/
def encodeGroup (c : Config) (R : Nat → Nat → Byte) (y k : Nat) : Byte :=
  pack8 c (R y (8 * k)) (R y (8 * k + 1)) (R y (8 * k + 2)) (R y (8 * k + 3))
    (R y (8 * k + 4)) (R y (8 * k + 5)) (R y (8 * k + 6)) (R y (8 * k + 7))

/-- ENCODE_ROW (R90). -/
def encodeRow (c : Config) (R : Nat → Nat → Byte) (y : Nat) : List Byte :=
  (List.range c.bytesPerRow).map fun k => encodeGroup c R y k

/-- ENCODE (R91): the rows of the plane. -/
def encodeRaster (c : Config) (R : Nat → Nat → Byte) : List (List Byte) := (List.range c.height).map fun y => encodeRow c R y

/-- WHITE_PLANE (R92). -/
def whitePlane (c : Config) : List (List Byte) := List.replicate c.height (List.replicate c.bytesPerRow c.whiteByte)

/-- STRIPE_PLANE (R93): white above row `n`, ink from it on. -/
def stripePlane (c : Config) (n : Nat) : List (List Byte) :=
  (List.range c.height).map fun y => List.replicate c.bytesPerRow (if y < n then c.whiteByte else c.inkByte)

/-! ## The streaming machine -/

/-- One shift of the accumulator (R89, R102). -/
def shiftIn (c : Config) (acc s : Byte) : Byte := (acc <<< 1) ||| (bit c s).setWidth 8

/-- The state with other working registers. -/
def setEnc (e : Enc) (s : State) : State := { s with enc := e }

/-- A transaction on ENC's output channels (R100). -/
def putOut (o : EncOut) (s : State) : State := { s with chan := s.chan ++ [o] }

/-- The working registers outside an invocation: unspecified (R37, R104), so free values, within the ranges of R22. -/
def idleEnc (c : Config) (k : Nat) (plane : Colour) : Enc where
  row := Config.freeNumber k % c.height
  grp := Config.freeNumber (k + 1) % c.bytesPerRow
  j := Config.freeNumber (k + 2) % c.group
  acc := Config.freeByte k
  active := false
  plane := plane

/-- The next free values. -/
def nextFresh (s : State) : State := { s with fresh := s.fresh + 3 }

/-- FINISH (R104). -/
def encFinish (c : Config) (s : State) : State :=
  putOut .done (nextFresh (setEnc (idleEnc c s.fresh s.enc.plane) s))

/-- BYTE_OUT of the accumulator and the MemWrite it stands for (R103). -/
def encEmit (c : Config) (s : State) : State :=
  putOut (.byteOut s.enc.acc)
    (setMem s.enc.plane.planeSpace
      (Memory.write (memOf s.enc.plane.planeSpace s) (s.enc.row * c.bytesPerRow + s.enc.grp) s.enc.acc) s)

/-- ADVANCE (R103). -/
def encAdvance (c : Config) (s : State) : State :=
  let t := encEmit c s
  if s.enc.grp < c.bytesPerRow - 1 then setEnc { s.enc with acc := 0, j := 0, grp := s.enc.grp + 1 } t
  else if s.enc.row < c.height - 1 then setEnc { s.enc with acc := 0, j := 0, grp := 0, row := s.enc.row + 1 } t
  else encFinish c (setEnc { s.enc with acc := 0, j := 0, grp := 0 } t)

/-- PIXEL (R102). A sample offered while `enc.active` is 0 is refused (R106). -/
def encPixel (c : Config) (px : Byte) (s : State) : State :=
  if s.enc.active then
    if s.enc.j < c.group - 1 then setEnc { s.enc with acc := shiftIn c s.enc.acc px, j := s.enc.j + 1 } s
    else encAdvance c (setEnc { s.enc with acc := shiftIn c s.enc.acc px } s)
  else refuse s

/-- START (R101) for a PLANE space. While another operation is in progress it is refused (R106, R187); a wrong size is
SizeMismatch and leaves ENC idle. -/
def encStart (c : Config) (plane : Colour) (w h : Nat) (s : State) : State :=
  if inProgress s then refuse s
  else match validate c w h with
    | some e => abort s.hist.length e s
    | none => setEnc ⟨0, 0, 0, 0, true, plane⟩ s

/-! ## One whole encode inside an operation -/

/-- ENCODE as memory accesses (R91): the raster of `src`, validated before, into the PLANE space of `dst`, with what
ENC gives on its channels (R105) and its registers left as FINISH leaves them (R104). -/
def encodeInto (c : Config) (src dst : Colour) (s : State) : State :=
  let bytes := (encodeRaster c (sample c src s)).flatten
  let t := setMem dst.planeSpace (Memory.writeAll (memOf dst.planeSpace s) 0 bytes) s
  { t with chan := t.chan ++ (bytes.map .byteOut ++ [.done]), enc := idleEnc c s.fresh dst, fresh := s.fresh + 3 }

/-- ENCODE_PLANE (R97) on the RASTER and PLANE spaces of the operand's colour (R39). -/
def encodePlane (c : Config) (r : RasterArg) (s : State) : State :=
  match validateArg c r with
  | some e => abort s.hist.length e s
  | none => giveBack (.okPlane (encodeRaster c (sample c r.space s))) (discardPlane r.space (encodeInto c r.space r.space s))

/-- Every lifecycle value: ENCODE_PLANE needs no resource of SEQ (R97, R177). -/
def anyLife : List Life := [.constructed, .unusable, .ready, .resetDone, .sequenced, .closed]

/-- ENCODE_PLANE, R97. -/
def execEncodePlane (r : RasterArg) (s : State) : Host.Outcome State Fault Refusal :=
  .next (operation anyLife (encodePlane Config.hw r) s)

end Sys2Proof.Machine
end

