-- ==== Sys2Proof/Machine/Transmit.lean ====
section
/-! DEFINITION. The transmission primitives of SEQ (41_transmit_primitives.md), WAIT_BUSY, and the two helpers. -/
namespace Sys2Proof.Machine

/-- The lifecycle values in which SEQ may transmit: after INITIALIZE and before CLOSE (R128, R185). -/
def openLives : List Life := [.ready, .resetDone, .sequenced]

/-! ## The wire -/

/-- One bit of a byte (R9). -/
def bitAt (b : Byte) (n : Nat) : BitVec 1 := b.extractLsb' n 1

/-- The bits of a byte in the order they stand on the data-out line (R46, R67). -/
def wireBits (c : Config) (b : Byte) : List (BitVec 1) :=
  if c.spiMsbFirst then [bitAt b 7, bitAt b 6, bitAt b 5, bitAt b 4, bitAt b 3, bitAt b 2, bitAt b 1, bitAt b 0]
  else [bitAt b 0, bitAt b 1, bitAt b 2, bitAt b 3, bitAt b 4, bitAt b 5, bitAt b 6, bitAt b 7]

/-- Transport.write (R110): one transaction, its event holding the bytes requested and the platform's answer. -/
def spiWrite (bytes : List Byte) (s : State) : State :=
  emit (.spi bytes (s.env.spiAnswer bytes.length)) (setEnv s.env.afterSpi s)

/-! ## The primitives -/

/-- One byte with the data/command-select line at a level (R111, R112). A short answer is not examined. -/
def sendByte (lv : Level) (b : Byte) (s : State) : Run :=
  (lineWrite .dc lv s).andThen fun t =>
    match t.env.spiAnswer 1 with
    | .ok _ => .ok (spiWrite [b] t)
    | .err e => .raised (.transport e) (spiWrite [b] t)

/-- SEND_COMMAND_BYTE (R111). -/
def sendCommandByte (c : Config) (code : Byte) (s : State) : Run := sendByte c.dcCommand code s

/-- SEND_DATA_BYTE (R112). -/
def sendDataByte (c : Config) (value : Byte) (s : State) : Run := sendByte c.dcData value s

/-- The log of a partial write (R33, R113): only if fewer bytes were written than requested. -/
def logPartial (requested written : Nat) (s : State) : State :=
  if written < requested then emit (.partialWrite requested written) s else s

/-- SEND_DATA (R113): one transaction for the whole sequence; a partial write is logged and is no error (R152). -/
def sendData (c : Config) (bytes : List Byte) (s : State) : Run :=
  (lineWrite .dc c.dcData s).andThen fun t =>
    match t.env.spiAnswer bytes.length with
    | .ok n => .ok (logPartial bytes.length n (spiWrite bytes t))
    | .err e => .raised (.transport e) (spiWrite bytes t)

/-- One SEND_DATA_BYTE for each parameter (R118). -/
def sendParams (c : Config) (params : List Byte) (s : State) : Run :=
  match params with
  | [] => .ok s
  | p :: rest => (sendDataByte c p s).andThen (sendParams c rest)

/-- SEND_COMMAND (R118). -/
def sendCommand (c : Config) (code : Byte) (params : List Byte) (s : State) : Run :=
  (sendCommandByte c code s).andThen (sendParams c params)

/-- One SEND_DATA for each row (R119). -/
def sendRows (c : Config) (rows : List (List Byte)) (s : State) : Run :=
  match rows with
  | [] => .ok s
  | r :: rest => (sendData c r s).andThen (sendRows c rest)

/-- SEND_PLANE (R119). -/
def sendPlane (c : Config) (code : Byte) (rows : List (List Byte)) (s : State) : Run :=
  (sendCommandByte c code s).andThen (sendRows c rows)

/-! ## WAIT_BUSY -/

/-- One sample and what WAIT_BUSY does with it (R114, R115): an error of the platform is raised before any event. -/
def judge (c : Config) (a : BusyAnswer) (s : State) : Poll :=
  match a with
  | .err e => .raised (.transport e) s
  | .level v =>
    if v = c.busyReady then .ready (emit (.busy v) s)
    else if v = c.busyBusy then .again (delay c.pollMs (emit (.busy v) s))
    else .raised (.unexpectedSignal v) (emit (.busy v) s)

/-- The loop of WAIT_BUSY over the samples at hand (R115). -/
def pollAll (c : Config) (l : List BusyAnswer) (s : State) : Poll :=
  match l with
  | [] => .again s
  | a :: rest =>
    match judge c a (setBusy rest s) with
    | .again t => pollAll c rest t
    | .ready t => .ready t
    | .raised e t => .raised e t

/-- What is dead when an operation returns (R59): PRINT_IMAGE's planes. -/
def discardFor (op : Waiting) (s : State) : State :=
  match op with
  | .printImage => discardPlanes s
  | .waitBusy => s
  | .powerOff => s
  | .powerOn => s
  | .displayRefresh => s
  | .firstSequence => s
  | .clearDisplay => s
  | .printTricolor => s
  | .close => s

/-- What an operation does after its WAIT_BUSY: FIRST_SEQUENCE sends 0x00 with its parameter (R135), CLOSE sends 0x07
with 0xA5 (R142), the others return. -/
def conclude (c : Config) (p : Pending) (s : State) : State :=
  match p.op with
  | .firstSequence => settle p.start (setLife .sequenced) (sendCommand c c.cmdPanelSetting [c.psrP0] s)
  | .close => settle p.start (setLife .closed) (sendCommand c c.cmdDeepSleep [c.deepSleepCheck] s)
  | .printImage => giveBack .ok (discardFor .printImage s)
  | .waitBusy => giveBack .ok s
  | .powerOff => giveBack .ok s
  | .powerOn => giveBack .ok s
  | .displayRefresh => giveBack .ok s
  | .clearDisplay => giveBack .ok s
  | .printTricolor => giveBack .ok s

/-- The operation goes on in its WAIT_BUSY (R117). -/
def keepWaiting (p : Pending) (s : State) : State := { s with pending := some p }

/-- The outcome of polling: the rest of the operation, its abort, or more polling. -/
def settlePoll (c : Config) (p : Pending) (r : Poll) : State :=
  match r with
  | .ready s => conclude c p s
  | .again s => keepWaiting p s
  | .raised e s => abort p.start e (discardFor p.op s)

/-- Enter WAIT_BUSY: take the samples at hand; if all read busy the operation stays in progress. -/
def enterWait (c : Config) (p : Pending) (s : State) : State := settlePoll c p (pollAll c s.env.busySamples s)

/-- A further poll of an operation in progress: the samples at hand, else one free draw (R114). There is no bound
(R117): while samples read busy, every further step is such a poll. -/
def resumeWait (c : Config) (p : Pending) (s : State) : State :=
  match s.env.busySamples with
  | [] => settlePoll c p (judge c s.env.busyAnswer (setEnv s.env.drawn s))
  | _ :: _ => enterWait c p s

/-- Steps of an operation, then its WAIT_BUSY. -/
def thenWait (c : Config) (p : Pending) (r : Run) : State :=
  match r with
  | .ok s => enterWait c p s
  | .raised e s => abort p.start e (discardFor p.op s)

/-- An operation that is one sequence of steps: it returns Ok or the first error, and moves no lifecycle value on
success (R128). -/
def primitive (f : State → Run) (s : State) : State := settle s.hist.length id (f s)

/-- SEND_COMMAND_BYTE, R111. -/
def execSendCommandByte (code : Byte) (s : State) : Host.Outcome State Fault Refusal :=
  .next (operation openLives (primitive (sendCommandByte Config.hw code)) s)

/-- SEND_DATA_BYTE, R112. -/
def execSendDataByte (value : Byte) (s : State) : Host.Outcome State Fault Refusal :=
  .next (operation openLives (primitive (sendDataByte Config.hw value)) s)

/-- SEND_DATA, R113. -/
def execSendData (bytes : List Byte) (s : State) : Host.Outcome State Fault Refusal :=
  .next (operation openLives (primitive (sendData Config.hw bytes)) s)

/-- WAIT_BUSY as an operation (R115). -/
def waitBusy (c : Config) (s : State) : State := enterWait c ⟨.waitBusy, s.hist.length⟩ s

/-- WAIT_BUSY, R115. -/
def execWaitBusy (s : State) : Host.Outcome State Fault Refusal := .next (operation openLives (waitBusy Config.hw) s)

end Sys2Proof.Machine
end

