-- ==== Sys2Proof/Machine/PanelCommands.lean ====
section
/-! DEFINITION. The eight panel commands as SEQ emits them (41_transmit_primitives.md, section 4). Emitted alone, each is
admitted as the primitives are, since it is made of them (R128), and moves no lifecycle value on success. -/
namespace Sys2Proof.Machine

/-- A command byte followed by WAIT_BUSY (R121, R122, R126). -/
def commandThenWait (c : Config) (op : Waiting) (code : Byte) (s : State) : State :=
  thenWait c ⟨op, s.hist.length⟩ (sendCommandByte c code s)

/-- The parameters of booster soft start (R70, R123). -/
def boosterParams (c : Config) : List Byte := [c.btstP0, c.btstP1, c.btstP2]

/-- The end of an operation of the steps `f` after ENC has made the plane of `dst`, which is then dead (R59). -/
def sendEncoded (c : Config) (code : Byte) (dst : Colour) (r : RasterArg) (s : State) : State :=
  match validateArg c r with
  | some e => abort s.hist.length e s
  | none =>
    let t := encodeInto c r.space dst s
    discardPlane dst (settle s.hist.length id (sendPlane c code (planeRows c dst t) t))

/-- A data command with its plane (R125, R127). -/
def sendSource (c : Config) (code : Byte) (dst : Colour) (p : PlaneSource) (s : State) : State :=
  match p with
  | .white => primitive (sendPlane c code (whitePlane c)) s
  | .stripe n => primitive (sendPlane c code (stripePlane c n)) s
  | .encoded r => sendEncoded c code dst r s

/-- PANEL_SETTING, R120. -/
def execPanelSetting (s : State) : Host.Outcome State Fault Refusal :=
  .next (operation openLives (primitive (sendCommand Config.hw Config.hw.cmdPanelSetting [Config.hw.psrP0])) s)

/-- POWER_OFF, R121. -/
def execPowerOff (s : State) : Host.Outcome State Fault Refusal :=
  .next (operation openLives (commandThenWait Config.hw .powerOff Config.hw.cmdPowerOff) s)

/-- POWER_ON, R122. -/
def execPowerOn (s : State) : Host.Outcome State Fault Refusal :=
  .next (operation openLives (commandThenWait Config.hw .powerOn Config.hw.cmdPowerOn) s)

/-- BOOSTER_SOFT_START, R123. -/
def execBoosterSoftStart (s : State) : Host.Outcome State Fault Refusal :=
  .next (operation openLives (primitive (sendCommand Config.hw Config.hw.cmdBoosterSoftStart (boosterParams Config.hw))) s)

/-- DEEP_SLEEP, R124. -/
def execDeepSleep (s : State) : Host.Outcome State Fault Refusal :=
  .next (operation openLives (primitive (sendCommand Config.hw Config.hw.cmdDeepSleep [Config.hw.deepSleepCheck])) s)

/-- DATA_BLACK, R125. -/
def execDataBlack (p : PlaneSource) (s : State) : Host.Outcome State Fault Refusal :=
  .next (operation openLives (sendSource Config.hw Config.hw.cmdDataBlack .black p) s)

/-- DISPLAY_REFRESH, R126. -/
def execDisplayRefresh (s : State) : Host.Outcome State Fault Refusal :=
  .next (operation openLives (commandThenWait Config.hw .displayRefresh Config.hw.cmdDisplayRefresh) s)

/-- DATA_RED, R127. -/
def execDataRed (p : PlaneSource) (s : State) : Host.Outcome State Fault Refusal :=
  .next (operation openLives (sendSource Config.hw Config.hw.cmdDataRed .red p) s)

end Sys2Proof.Machine
end

