-- ==== Sys2Proof/Machine/Sequences.lean ====
section
/-! DEFINITION. The composite operations of SEQ (42_panel_sequences.md). -/
namespace Sys2Proof.Machine

/-! ## INITIALIZE (R133) -/

/-- Export one line. -/
def exportLine (l : Line) (s : State) : Run :=
  let t := setEnv s.env.afterAcquire (emit (.exported l) s)
  if s.env.acquires then .ok t else .raised .resourceUnavailable t

/-- Set one direction; a failure is a Transport error. -/
def setDirection (l : Line) (d : Direction) (s : State) : Run :=
  let t := setEnv s.env.afterDirection (emit (.direction l d) s)
  match s.env.directionAnswer with
  | .ok => .ok t
  | .err e => .raised (.transport e) t

/-- The configuration of R67. -/
def spiFormat (c : Config) : SpiFormat := ⟨c.spiHz, c.spiWordBits, c.spiMsbFirst, c.spiClkIdle, c.spiSampleEdge⟩

/-- Configure the SPI channel. -/
def configureSpi (c : Config) (s : State) : Run :=
  let t := setEnv s.env.afterAcquire (emit (.spiConfig (spiFormat c)) s)
  if s.env.acquires then .ok t else .raised .resourceUnavailable t

/-- The seven steps of R133, in its order. -/
def acquireAll (c : Config) (s : State) : Run :=
  ((((((exportLine .busy s).andThen (exportLine .rst)).andThen (exportLine .dc)).andThen
    (setDirection .busy .input)).andThen (setDirection .rst .output)).andThen
    (setDirection .dc .output)).andThen (configureSpi c)

/-- INITIALIZE (R133): any failure leaves the block UNUSABLE (R149). -/
def initialiseLines (c : Config) (s : State) : State :=
  match acquireAll c s with
  | .ok t => giveBack .ok (setLife .ready t)
  | .raised e t => abortTo .unusable e t

/-- INITIALIZE, R133. -/
def execInitialise (s : State) : Host.Outcome State Fault Refusal :=
  .next (operation [.constructed] (initialiseLines Config.hw) s)

/-! ## RESET (R134) -/

/-- Write a level to RST and hold it. -/
def holdRst (c : Config) (lv : Level) (s : State) : Run :=
  (lineWrite .rst lv s).andThen fun t => .ok (delay c.settleMs t)

/-- The pulse: high, low, high, each held. -/
def resetPulse (c : Config) (s : State) : Run :=
  ((holdRst c .high s).andThen (holdRst c .low)).andThen (holdRst c .high)

/-- RESET (R134). -/
def resetPanel (c : Config) (s : State) : State := settle s.hist.length (setLife .resetDone) (resetPulse c s)

/-- RESET, R134. -/
def execReset (s : State) : Host.Outcome State Fault Refusal := .next (operation openLives (resetPanel Config.hw) s)

/-! ## FIRST_SEQUENCE (R135) and CLOSE (R142) -/

/-- FIRST_SEQUENCE up to its WAIT_BUSY; `conclude` holds the rest. -/
def firstSequence (c : Config) (s : State) : State :=
  thenWait c ⟨.firstSequence, s.hist.length⟩
    ((sendCommand c c.cmdBoosterSoftStart (boosterParams c) s).andThen (sendCommandByte c c.cmdPowerOn))

/-- FIRST_SEQUENCE, R135. -/
def execFirstSequence (s : State) : Host.Outcome State Fault Refusal :=
  .next (operation [.resetDone] (firstSequence Config.hw) s)

/-- CLOSE up to its WAIT_BUSY; `conclude` holds the rest. -/
def closePanel (c : Config) (s : State) : State := commandThenWait c .close c.cmdPowerOff s

/-- CLOSE, R142. -/
def execClose (s : State) : Host.Outcome State Fault Refusal := .next (operation openLives (closePanel Config.hw) s)

/-! ## The image operations (R136, R137, R139) -/

/-- Both planes, then the refresh command (R136, R137, R139). -/
def sendFrame (c : Config) (black red : List (List Byte)) (s : State) : Run :=
  ((sendPlane c c.cmdDataBlack black s).andThen (sendPlane c c.cmdDataRed red)).andThen
    (sendCommandByte c c.cmdDisplayRefresh)

/-- CLEAR_DISPLAY (R136). -/
def clearDisplay (c : Config) (s : State) : State :=
  thenWait c ⟨.clearDisplay, s.hist.length⟩ (sendFrame c (whitePlane c) (whitePlane c) s)

/-- CLEAR_DISPLAY, R136. -/
def execClearDisplay (s : State) : Host.Outcome State Fault Refusal :=
  .next (operation [.sequenced] (clearDisplay Config.hw) s)

/-- PRINT_TRICOLOR (R137). -/
def printTricolor (c : Config) (s : State) : State :=
  thenWait c ⟨.printTricolor, s.hist.length⟩
    (sendFrame c (stripePlane c c.tricolorBlackRow) (stripePlane c c.tricolorRedRow) s)

/-- PRINT_TRICOLOR, R137. -/
def execPrintTricolor (s : State) : Host.Outcome State Fault Refusal :=
  .next (operation [.sequenced] (printTricolor Config.hw) s)

/-- ENC makes the red plane if a red raster is present (R94). -/
def encodeRed (c : Config) (red : Option RasterArg) (s : State) : State :=
  match red with
  | none => s
  | some q => encodeInto c q.space .red s

/-- The red plane that is sent: PLANE_R, or WHITE_PLANE without a red raster (R94, R141). -/
def redRows (c : Config) (red : Option RasterArg) (s : State) : List (List Byte) :=
  match red with
  | none => whitePlane c
  | some _ => planeRows c .red s

/-- PRINT_IMAGE after its validations: both planes are encoded before the first byte is sent (R139). -/
def printPlanes (c : Config) (r : RasterArg) (red : Option RasterArg) (s : State) : State :=
  let t := encodeRed c red (encodeInto c r.space .black s)
  thenWait c ⟨.printImage, s.hist.length⟩ (sendFrame c (planeRows c .black t) (redRows c red t) t)

/-- PRINT_IMAGE (R139): the first raster is validated first, then a red raster if present (R140). -/
def printImage (c : Config) (r : RasterArg) (red : Option RasterArg) (s : State) : State :=
  match validateArg c r with
  | some e => abort s.hist.length e s
  | none =>
    match validateOpt c red with
    | some e => abort s.hist.length e s
    | none => printPlanes c r red s

/-- PRINT_IMAGE, R139. -/
def execPrintImage (r : RasterArg) (red : Option RasterArg) (s : State) : Host.Outcome State Fault Refusal :=
  .next (operation [.sequenced] (printImage Config.hw r red) s)

end Sys2Proof.Machine
end

