-- ==== Sys2Proof/Machine/Dispatch.lean ====
section
/-! DEFINITION. One arm for each instruction. -/
namespace Sys2Proof.Machine

def exec (i : Instr) (s : State) : Host.Outcome State Fault Refusal :=
  match i with
  | .panelSetting => Sys2Proof.Machine.execPanelSetting s
  | .powerOff => Sys2Proof.Machine.execPowerOff s
  | .powerOn => Sys2Proof.Machine.execPowerOn s
  | .boosterSoftStart => Sys2Proof.Machine.execBoosterSoftStart s
  | .deepSleep => Sys2Proof.Machine.execDeepSleep s
  | .dataBlack p => Sys2Proof.Machine.execDataBlack p s
  | .displayRefresh => Sys2Proof.Machine.execDisplayRefresh s
  | .dataRed p => Sys2Proof.Machine.execDataRed p s
  | .initialise => Sys2Proof.Machine.execInitialise s
  | .reset => Sys2Proof.Machine.execReset s
  | .sendCommandByte code => Sys2Proof.Machine.execSendCommandByte code s
  | .sendDataByte value => Sys2Proof.Machine.execSendDataByte value s
  | .sendData bytes => Sys2Proof.Machine.execSendData bytes s
  | .waitBusy => Sys2Proof.Machine.execWaitBusy s
  | .firstSequence => Sys2Proof.Machine.execFirstSequence s
  | .clearDisplay => Sys2Proof.Machine.execClearDisplay s
  | .printTricolor => Sys2Proof.Machine.execPrintTricolor s
  | .printImage raster red => Sys2Proof.Machine.execPrintImage raster red s
  | .close => Sys2Proof.Machine.execClose s
  | .encodePlane raster => Sys2Proof.Machine.execEncodePlane raster s

end Sys2Proof.Machine
end

