-- ==== Sys2Proof/Machine/HostMoves.lean ====
section
/-! DEFINITION. What HOST does besides issuing an operation, and how an encoded call is put where the next step takes it. -/
namespace Sys2Proof.Machine

/-- A raster HOST supplies, laid out from address 0 (R41). It may do so between operations only (R58, R186). -/
def supplyRaster (colour : Colour) (samples : List Byte) (s : State) : State :=
  if inProgress s then refuse s else setMem colour.rasterSpace (Memory.writeAll [] 0 samples) s

/-- The state with another queue of HOST's moves. -/
def setInbox (l : List HostMove) (s : State) : State := { s with inbox := l }

/-- HOST makes no move while an operation is in progress: it waits for the return, as R16 asks of it, or has no further move. -/
def hostWaits (s : State) : Bool :=
  match s.inbox with
  | [] => true
  | .await :: _ => true
  | .call _ :: _ => false
  | .supply _ _ :: _ => false
  | .start _ _ _ :: _ => false
  | .pixIn _ :: _ => false

/-- The state in which the next step takes this call: it is HOST's next move, and no operation stands in WAIT_BUSY. -/
def placeCall (c : Call) (s : State) : State := { s with inbox := .call c :: s.inbox, pending := none }

end Sys2Proof.Machine
end

