-- ==== Sys2Proof/Machine/Fetch.lean ====
section
/-! DEFINITION. Taking HOST's next move and running it. -/
namespace Sys2Proof.Machine

/-- One move of HOST. A call the decoder rejects is refused (R78, R157); waiting does nothing. -/
def runMove (m : HostMove) (s : State) : Host.Outcome State Fault Refusal :=
  match m with
  | .call c =>
    match decode c with
    | .ok i => exec i s
    | .error _ => .next (refuse s)
  | .await => .next s
  | .supply colour samples => .next (supplyRaster colour samples s)
  | .start colour w h => .next (encStart Config.hw colour w h s)
  | .pixIn px => .next (encPixel Config.hw px s)

/-- HOST's next move, if it makes one; with nothing to do, nothing happens. -/
def runInbox (s : State) : Host.Outcome State Fault Refusal :=
  match s.inbox with
  | [] => .next s
  | m :: rest => runMove m (setInbox rest s)

/-- A further poll of the operation that stands in WAIT_BUSY (R117) while HOST waits; else HOST's next move, an operation being
one atomic call (R144). A move made while an operation stands in WAIT_BUSY is refused (R16, R157). -/
def oneStep (s : State) : Host.Outcome State Fault Refusal :=
  match s.pending with
  | some p => if hostWaits s then .next (resumeWait Config.hw p s) else runInbox s
  | none => runInbox s

end Sys2Proof.Machine
end

