-- ==== Sys2Proof/Machine/Step.lean ====
section
/-! DEFINITION. One step of the machine. -/
namespace Sys2Proof.Machine

/-- One step. -/
def step (s : State) : Host.Outcome State Fault Refusal := oneStep s

/-- The state whose next step runs the instruction the table number `w` of `nbits` bits stands for. -/
def State.withFetchWord (s : State) (nbits w : Nat) : State := placeCall (tableCall nbits w) s

end Sys2Proof.Machine
end

