-- ==== Sys2Proof/Safety.lean ====
section
/-! DEFINITION. What counts as a safe run, and the invariant every step keeps. -/
namespace Sys2Proof.Machine

/-- A run is clean so far: no error recorded (R31) and no operation refused (R157). -/
def Clean (s : State) : Prop := s.seq.err = none ∧ s.refused = false

/-- The kind of the first error among the results returned (R31, R170). -/
def firstErrorKind : List OpResult → Option ErrorKind
  | [] => none
  | .ok :: l => firstErrorKind l
  | .okPlane _ :: l => firstErrorKind l
  | .error e :: _ => some e.kind

/-- Events that drive or sample a line, send a byte or wait (R185); the others are INITIALIZE's (R133). -/
def Event.isTraffic : Event → Bool
  | .exported _ => false
  | .direction _ _ => false
  | .spiConfig _ => false
  | .rst _ => true
  | .dc _ => true
  | .spi _ _ => true
  | .busy _ => true
  | .sleep _ => true
  | .partialWrite _ _ => true

/-- Every SPI event comes directly after a DC event (R56); `afterDc` says whether the event before was one. -/
def dcFramed (afterDc : Bool) : List Event → Bool
  | [] => true
  | .spi _ _ :: l => afterDc && dcFramed false l
  | .dc _ :: l => dcFramed true l
  | .rst _ :: l => dcFramed false l
  | .exported _ :: l => dcFramed false l
  | .direction _ _ :: l => dcFramed false l
  | .spiConfig _ :: l => dcFramed false l
  | .busy _ :: l => dcFramed false l
  | .sleep _ :: l => dcFramed false l
  | .partialWrite _ _ :: l => dcFramed false l

/-- The lifecycle values in which an operation can stand in its WAIT_BUSY (R132). -/
def waitLives : Waiting → List Life
  | .firstSequence => [.resetDone]
  | .clearDisplay => [.sequenced]
  | .printTricolor => [.sequenced]
  | .printImage => [.sequenced]
  | .waitBusy => openLives
  | .powerOff => openLives
  | .powerOn => openLives
  | .displayRefresh => openLives
  | .close => openLives

/-- The invariant of the machine with configuration `c`. -/
structure Inv (c : Config) (s : State) : Prop where
  /-- Every address space keeps its canonical form. -/
  memory : Memory.wf s.rasterK = true ∧ Memory.wf s.rasterR = true ∧ Memory.wf s.planeK = true ∧ Memory.wf s.planeR = true
  /-- The scan position stays in its ranges (R22). -/
  position : s.enc.row < c.height ∧ s.enc.grp < c.bytesPerRow ∧ s.enc.j < c.group
  /-- While ENC is active the upper `8 - enc.j` bits of the accumulator are zero (R23). -/
  accumulator : s.enc.active = true → s.enc.acc.toNat < 2 ^ s.enc.j
  /-- An operation in progress stands in a lifecycle value that admits it, and ENC is idle (R15, R132). -/
  waiting : ∀ p, s.pending = some p → s.seq.life ∈ waitLives p.op ∧ p.start ≤ s.hist.length ∧ s.enc.active = false
  /-- After a successful RESET the reset line is high (R29). -/
  resetHigh : s.seq.life = .resetDone ∨ s.seq.life = .sequenced → s.seq.rst = .high
  /-- Without the four resources nothing was driven, sampled or sent (R27, R185). -/
  silent : s.seq.life = .constructed ∨ s.seq.life = .unusable →
    s.seq.dc = .unknown ∧ s.seq.rst = .unknown ∧ s.hist.all (fun e => !e.isTraffic) = true
  /-- `seq.err` is the kind of the first error returned (R31, R170). -/
  sticky : s.seq.err = firstErrorKind s.returns
  /-- The data/command-select line is written before every byte sequence (R56). -/
  framed : dcFramed false s.hist = true

/-! ## The terms the claims use, with the spec's own numbers -/

/-- No other operation is in progress (R16). -/
def Idle (s : State) : Prop := s.pending = none ∧ s.enc.active = false

/-- The calls of the ideal platform (R110, R133): every call succeeds, every transaction takes all its bytes. -/
def IdealCalls (s : State) : Prop :=
  s.env.ideal = true ∧ s.env.lineAnswers = [] ∧ s.env.spiAnswers = [] ∧ s.env.acquireAnswers = [] ∧ s.env.directionAnswers = []

/-- The ideal platform, which never reports an error (R151): its calls, and no error among the busy samples. -/
def IdealPlatform (s : State) : Prop := IdealCalls s ∧ ∀ e, BusyAnswer.err e ∉ s.env.busySamples

/-- The lifecycle values that admit an instruction: the table of R132; a panel command emitted alone is admitted as the
primitives it is made of (R128; log 6). -/
def admittedIn : Instr → List Life
  | .panelSetting => [.ready, .resetDone, .sequenced]
  | .powerOff => [.ready, .resetDone, .sequenced]
  | .powerOn => [.ready, .resetDone, .sequenced]
  | .boosterSoftStart => [.ready, .resetDone, .sequenced]
  | .deepSleep => [.ready, .resetDone, .sequenced]
  | .dataBlack _ => [.ready, .resetDone, .sequenced]
  | .displayRefresh => [.ready, .resetDone, .sequenced]
  | .dataRed _ => [.ready, .resetDone, .sequenced]
  | .initialise => [.constructed]
  | .reset => [.ready, .resetDone, .sequenced]
  | .sendCommandByte _ => [.ready, .resetDone, .sequenced]
  | .sendDataByte _ => [.ready, .resetDone, .sequenced]
  | .sendData _ => [.ready, .resetDone, .sequenced]
  | .waitBusy => [.ready, .resetDone, .sequenced]
  | .firstSequence => [.resetDone]
  | .clearDisplay => [.sequenced]
  | .printTricolor => [.sequenced]
  | .printImage _ _ => [.sequenced]
  | .close => [.ready, .resetDone, .sequenced]
  | .encodePlane _ => [.constructed, .unusable, .ready, .resetDone, .sequenced, .closed]

/-- The lifecycle value after success (R131, R132). -/
def lifeAfterOk : Instr → Life → Life
  | .initialise, _ => .ready
  | .reset, _ => .resetDone
  | .firstSequence, _ => .sequenced
  | .close, _ => .closed
  | .clearDisplay, l => l
  | .printTricolor, l => l
  | .printImage _ _, l => l
  | .encodePlane _, l => l
  | .sendCommandByte _, l => l
  | .sendDataByte _, l => l
  | .sendData _, l => l
  | .waitBusy, l => l
  | .panelSetting, l => l
  | .powerOff, l => l
  | .powerOn, l => l
  | .boosterSoftStart, l => l
  | .deepSleep, l => l
  | .dataBlack _, l => l
  | .displayRefresh, l => l
  | .dataRed _, l => l

/-- One byte with DC at a level, taken whole by the transport (R111, R112). -/
def byteEvents (lv : Level) (b : Byte) : List Event := [.dc lv, .spi [b] (.ok 1)]

/-- One row of a plane, taken whole (R113). -/
def rowEvents (row : List Byte) : List Event := [.dc .high, .spi row (.ok row.length)]

/-- A data command with its plane (R119). -/
def planeEvents (code : Byte) (rows : List (List Byte)) : List Event := byteEvents .low code ++ rows.flatMap rowEvents

/-- Both planes and the refresh command (R136, R137, R139). -/
def frameEvents (black red : List (List Byte)) : List Event :=
  planeEvents 0x10 black ++ planeEvents 0x13 red ++ byteEvents .low 0x12

/-- The bytes of both planes and the refresh command (R136, R137, R139). -/
def frameBytes (black red : List (List Byte)) : List Byte := 0x10 :: black.flatten ++ 0x13 :: red.flatten ++ [0x12]

/-- PANEL gives `k` samples that read busy. -/
def busySamples (k : Nat) : List BusyAnswer := List.replicate k (.level 0)

/-- What WAIT_BUSY does on them (R115). -/
def busyEvents (k : Nat) : List Event := (List.replicate k [Event.busy 0, Event.sleep 200]).flatten

/-- PANEL gives `k` samples that read busy, then one that reads ready, then `rest`. -/
def readyAfter (k : Nat) (rest : List BusyAnswer) : List BusyAnswer := busySamples k ++ .level 1 :: rest

/-- What WAIT_BUSY does on them (R116): `k + 1` samples and `k` sleeps. -/
def waitEvents (k : Nat) : List Event := busyEvents k ++ [.busy 1]

/-- A further poll of an operation in its WAIT_BUSY passes over `k` samples that read busy, meets the answer `a` and leaves the
environment `v`: the samples at hand, or, where none is listed, the free draw (R114; log 2). In a run it is always the draw, since an
operation stays in its WAIT_BUSY only when the list is used up. -/
def Polled (s : State) (k : Nat) (a : BusyAnswer) (v : Env) : Prop :=
  (∃ rest, s.env.busySamples = busySamples k ++ a :: rest ∧ v = { s.env with busySamples := rest }) ∨
  (k = 0 ∧ s.env.busySamples = [] ∧ s.env.busyAnswer = a ∧ v = s.env.drawn)

/-- A further poll meets `k + 1` samples that read busy and no other: all those at hand, or the free draw. -/
def PolledBusy (s : State) (k : Nat) (v : Env) : Prop :=
  (s.env.busySamples = busySamples (k + 1) ∧ v = { s.env with busySamples := [] }) ∨
  (k = 0 ∧ s.env.busySamples = [] ∧ s.env.busyAnswer = .level 0 ∧ v = s.env.drawn)

/-- The seven events of INITIALIZE, in the order of R133, with the SPI configuration of R67. -/
def initEvents : List Event :=
  [.exported .busy, .exported .rst, .exported .dc, .direction .busy .input, .direction .rst .output,
    .direction .dc .output, .spiConfig ⟨4000000, 8, true, .low, .leading⟩]

/-- The six events of RESET (R134). -/
def pulseEvents : List Event := [.rst .high, .sleep 200, .rst .low, .sleep 200, .rst .high, .sleep 200]

/-- The state of an error (R155, R170): the lifecycle value, the sticky record, the result; all else stands. -/
def errored (l : Life) (e : Error) (s : State) : State :=
  { s with
    seq := { s.seq with life := l, err := match s.seq.err with | none => some e.kind | some k => some k }
    returns := s.returns ++ [.error e] }

/-- A result that is no error (R79). -/
def OpResult.isOk : OpResult → Bool
  | .ok => true
  | .okPlane _ => true
  | .error _ => false

/-- An event that shows the step it stands for raised an error (R110, R115). -/
def Event.raises : Event → Bool
  | .spi _ (.err _) => true
  | .spi _ (.ok _) => false
  | .busy v => decide (2 ≤ v)
  | .exported _ => false
  | .direction _ _ => false
  | .spiConfig _ => false
  | .rst _ => false
  | .dc _ => false
  | .sleep _ => false
  | .partialWrite _ _ => false

/-- The instructions that use ENC (R97, R125, R127, R139). -/
def usesEnc : Instr → Bool
  | .encodePlane _ => true
  | .printImage _ _ => true
  | .dataBlack (.encoded _) => true
  | .dataRed (.encoded _) => true
  | .dataBlack .white => false
  | .dataBlack (.stripe _) => false
  | .dataRed .white => false
  | .dataRed (.stripe _) => false
  | .panelSetting => false
  | .powerOff => false
  | .powerOn => false
  | .boosterSoftStart => false
  | .deepSleep => false
  | .displayRefresh => false
  | .initialise => false
  | .reset => false
  | .sendCommandByte _ => false
  | .sendDataByte _ => false
  | .sendData _ => false
  | .waitBusy => false
  | .firstSequence => false
  | .clearDisplay => false
  | .printTricolor => false
  | .close => false

/-- The samples of a raster in the order ENC accepts them (R100, R105). -/
def rasterStream (R : Nat → Nat → Byte) : List Byte := (List.range 300).flatMap fun y => (List.range 400).map fun x => R y x

/-- The number of pixels accepted since START (R21, R22). -/
def scanIndex (e : Enc) : Nat := (e.row * 50 + e.grp) * 8 + e.j

/-- A raster operand of the panel's size (R95). -/
def PanelSized (r : RasterArg) : Prop := r.w = 400 ∧ r.h = 300

/-- The bytes of the wire history's SPI events (R145). -/
def bytesSent (l : List Event) : List Byte :=
  l.flatMap fun e => match e with
    | .spi bytes _ => bytes
    | .exported _ => []
    | .direction _ _ => []
    | .spiConfig _ => []
    | .rst _ => []
    | .dc _ => []
    | .busy _ => []
    | .sleep _ => []
    | .partialWrite _ _ => []

/-- The number of SPI transactions in a history (R145). -/
def spiCount (l : List Event) : Nat :=
  l.countP fun e => match e with
    | .spi _ _ => true
    | .exported _ => false
    | .direction _ _ => false
    | .spiConfig _ => false
    | .rst _ => false
    | .dc _ => false
    | .busy _ => false
    | .sleep _ => false
    | .partialWrite _ _ => false

end Sys2Proof.Machine
end

