-- ==== Sys2Proof/Certificates/Slice0/Obligations.lean ====
section
/-! DEFINITION. The statements for the provers. Each docstring says which rule of the spec it formalises. -/
open Sys2Proof Sys2Proof.Machine

/-! ## The encoder -/

/-- INK (R85): a sample is ink exactly when it is below 128, as an unsigned number. -/
def Obligations.InkIsBelow128 : Prop := ∀ s : Byte, ink Config.hw s = true ↔ s.toNat < 128

/-- BIT (R86, R87): 0 for ink and 1 for paper, which for the threshold 128 is the sample's most significant bit. -/
def Obligations.PlaneBitIsTopBitOfSample : Prop :=
  ∀ s : Byte, bit Config.hw s = (if s.toNat < 128 then 0 else 1) ∧ bit Config.hw s = bitAt s 7

/-- PACK8 (R88): the weighted sum, the first pixel's bit weighing 128. -/
def Obligations.Pack8IsWeightedSum : Prop :=
  ∀ p0 p1 p2 p3 p4 p5 p6 p7 : Byte,
    (pack8 Config.hw p0 p1 p2 p3 p4 p5 p6 p7).toNat =
      (bit Config.hw p0).toNat * 128 + (bit Config.hw p1).toNat * 64 + (bit Config.hw p2).toNat * 32 +
      (bit Config.hw p3).toNat * 16 + (bit Config.hw p4).toNat * 8 + (bit Config.hw p5).toNat * 4 +
      (bit Config.hw p6).toNat * 2 + (bit Config.hw p7).toNat

/-- PACK8's lanes and its serial form (R89): bit `7 - j` is pixel `j`'s bit alone, and eight shifts from zero give the byte. -/
def Obligations.Pack8LanesAndSerialForm : Prop :=
  ∀ p0 p1 p2 p3 p4 p5 p6 p7 : Byte,
    (let b := pack8 Config.hw p0 p1 p2 p3 p4 p5 p6 p7
     bitAt b 7 = bit Config.hw p0 ∧ bitAt b 6 = bit Config.hw p1 ∧ bitAt b 5 = bit Config.hw p2 ∧
     bitAt b 4 = bit Config.hw p3 ∧ bitAt b 3 = bit Config.hw p4 ∧ bitAt b 2 = bit Config.hw p5 ∧
     bitAt b 1 = bit Config.hw p6 ∧ bitAt b 0 = bit Config.hw p7) ∧
    pack8 Config.hw p0 p1 p2 p3 p4 p5 p6 p7 = [p0, p1, p2, p3, p4, p5, p6, p7].foldl (shiftIn Config.hw) 0

/-- The recovery property (R98): for every raster and pixel, bit `7 - x mod 8` of byte `x div 8` of row `y` is 0 exactly when
the sample is below 128; and two rasters give the same plane exactly when they agree on ink at every pixel. -/
def Obligations.EncodingRecoversInkBitForBit : Prop :=
  (∀ (R : Nat → Nat → Byte) (y x : Nat), y < 300 → x < 400 →
    ∃ row b, (encodeRaster Config.hw R)[y]? = some row ∧ row[x / 8]? = some b ∧
      bitAt b (7 - x % 8) = if (R y x).toNat < 128 then 0 else 1) ∧
  (∀ R Q : Nat → Nat → Byte,
    encodeRaster Config.hw R = encodeRaster Config.hw Q ↔
      ∀ y x, y < 300 → x < 400 → ((R y x).toNat < 128 ↔ (Q y x).toNat < 128))

/-- PLANE format (R65) of every plane the block makes: 300 rows of 50 bytes, 15000 bytes, and nothing else. -/
def Obligations.EveryPlaneHas300RowsOf50Bytes : Prop :=
  ∀ P : List (List Byte),
    ((∃ R, P = encodeRaster Config.hw R) ∨ P = whitePlane Config.hw ∨ ∃ n, P = stripePlane Config.hw n) →
    P.length = 300 ∧ (∀ row ∈ P, row.length = 50) ∧ P.flatten.length = 15000

/-- WHITE_PLANE (R92) and STRIPE_PLANE (R93): their bytes, and the rasters they are the encodings of. -/
def Obligations.ConstantPlanesAreEncodings : Prop :=
  (∀ y k, y < 300 → k < 50 → ∃ row, (whitePlane Config.hw)[y]? = some row ∧ row[k]? = some 0xFF) ∧
  (∀ n y k, y < 300 → k < 50 →
    ∃ row, (stripePlane Config.hw n)[y]? = some row ∧ row[k]? = some (if y < n then 0xFF else 0x00)) ∧
  (∀ R : Nat → Nat → Byte, (∀ y x, y < 300 → x < 400 → 128 ≤ (R y x).toNat) → encodeRaster Config.hw R = whitePlane Config.hw) ∧
  (∀ (n : Nat) (R : Nat → Nat → Byte),
    (∀ y x, y < 300 → x < 400 → (y < n ↔ 128 ≤ (R y x).toNat)) → encodeRaster Config.hw R = stripePlane Config.hw n) ∧
  stripePlane Config.hw 300 = whitePlane Config.hw

/-- R46: the bits of an encoded row stand on the data-out line in ascending column, one bit for each pixel. -/
def Obligations.WireCarriesPixelsInColumnOrder : Prop :=
  ∀ (R : Nat → Nat → Byte) (y : Nat),
    (encodeRow Config.hw R y).flatMap (wireBits Config.hw) = (List.range 400).map fun x => bit Config.hw (R y x)

/-- The refinement of R105, of the machine's own steps: START for a PLANE space, then the samples of a raster in order on
PIX_IN, leave ENC idle, give on the channels the bytes of ENCODE in order and then DONE, and leave ENCODE in the PLANE space;
nothing of SEQ, no raster and no result changes. -/
def Obligations.StreamingEncoderRefinesEncode : Prop :=
  ∀ (R : Nat → Nat → Byte) (col : Colour) (rest : List HostMove) (s : State), Idle s →
    s.inbox = .start col 400 300 :: (rasterStream R).map .pixIn ++ rest →
    ∃ t, Host.Core.run Sys2Proof.core ((rasterStream R).length + 1) s = .next t ∧
      t.enc.active = false ∧ t.inbox = rest ∧
      t.chan = s.chan ++ (encodeRaster Config.hw R).flatten.map .byteOut ++ [.done] ∧
      planeRows Config.hw col t = encodeRaster Config.hw R ∧
      t.seq = s.seq ∧ t.hist = s.hist ∧ t.returns = s.returns ∧ t.refused = s.refused ∧ t.pending = none ∧
      t.rasterK = s.rasterK ∧ t.rasterR = s.rasterR

/-- The scan position (R21, R22): START puts it at 0; every accepted sample moves it on by exactly one pixel, until the
120000th, with which ENC becomes idle. -/
def Obligations.ScanPositionAdvancesByOnePixel : Prop :=
  (∀ (col : Colour) (s : State), Idle s →
    (encStart Config.hw col 400 300 s).enc.active = true ∧ scanIndex (encStart Config.hw col 400 300 s).enc = 0) ∧
  (∀ (px : Byte) (s : State), Inv Config.hw s → s.enc.active = true →
    (scanIndex s.enc + 1 < 120000 →
      (encPixel Config.hw px s).enc.active = true ∧ scanIndex (encPixel Config.hw px s).enc = scanIndex s.enc + 1) ∧
    (scanIndex s.enc + 1 = 120000 → (encPixel Config.hw px s).enc.active = false) ∧
    scanIndex s.enc < 120000)

/-- ENCODE_PLANE (R97) completes in every lifecycle value, for every raster of the panel's size: it returns the plane, emits
no event and changes nothing of SEQ; no raster and no other PLANE space changes; its own PLANE space is dead afterwards (R59,
log 13). -/
def Obligations.EncodePlaneReturnsThePlane : Prop :=
  ∀ (r : RasterArg) (s : State), Idle s → PanelSized r →
    ∃ t, exec (.encodePlane r) s = .next t ∧
      t.returns = s.returns ++ [.okPlane (encodeRaster Config.hw (sample Config.hw r.space s))] ∧
      t.seq = s.seq ∧ t.hist = s.hist ∧ t.env = s.env ∧ t.inbox = s.inbox ∧ t.refused = s.refused ∧
      t.pending = none ∧ t.enc.active = false ∧ t.rasterK = s.rasterK ∧ t.rasterR = s.rasterR ∧
      memOf r.space.planeSpace t = [] ∧
      (∀ sp, sp ≠ r.space.planeSpace → memOf sp t = memOf sp s)

/-- Purity (R96): the plane returned depends on the samples of the raster alone, whatever else differs between two states. -/
def Obligations.EncodePlaneDependsOnSamplesOnly : Prop :=
  ∀ (r : RasterArg) (s u : State), Idle s → Idle u → PanelSized r →
    (∀ a, a < 120000 → readByte r.space.rasterSpace s a = readByte r.space.rasterSpace u a) →
    ∃ s' u' P, exec (.encodePlane r) s = .next s' ∧ exec (.encodePlane r) u = .next u' ∧
      s'.returns = s.returns ++ [.okPlane P] ∧ u'.returns = u.returns ++ [.okPlane P]

/-- SizeMismatch (R148, R140): a raster of another size ends ENCODE_PLANE and PRINT_IMAGE with nothing changed but `seq.err` and the
result, the first raster checked before the second; so does a streaming START of another size (R101, R147; that it is returned and
recorded is log 16, that HOST's moves stand in a queue is log 1). -/
def Obligations.WrongSizeChangesNothing : Prop :=
  (∀ (r : RasterArg) (s : State), Idle s → ¬ PanelSized r →
    exec (.encodePlane r) s = .next (errored s.seq.life (.sizeMismatch r.w r.h) s)) ∧
  (∀ (r : RasterArg) (red : Option RasterArg) (s : State), Idle s → s.seq.life = .sequenced → ¬ PanelSized r →
    exec (.printImage r red) s = .next (errored .sequenced (.sizeMismatch r.w r.h) s)) ∧
  (∀ (r q : RasterArg) (s : State), Idle s → s.seq.life = .sequenced → PanelSized r → ¬ PanelSized q →
    exec (.printImage r (some q)) s = .next (errored .sequenced (.sizeMismatch q.w q.h) s)) ∧
  (∀ (col : Colour) (w h : Nat) (rest : List HostMove) (s : State), Idle s → s.inbox = .start col w h :: rest →
    ¬ (w = 400 ∧ h = 300) → step s = .next (errored s.seq.life (.sizeMismatch w h) { s with inbox := rest }))

/-! ## The primitives -/

/-- One byte with the data/command-select line at `lv` (R111, R112): the whole byte, a short write, an error of the transport and
an error of the line write. A count above the length is cut to it: log 3. READY after an error: log 14. -/
def sendsOneByte (i : Byte → Instr) (lv : Level) : Prop :=
  ∀ (b : Byte) (s : State), Idle s → s.seq.life ∈ [.ready, .resetDone, .sequenced] →
    (IdealCalls s →
      exec (i b) s = .next { s with
        seq := { s.seq with dc := .ofLevel lv }
        hist := s.hist ++ [.dc lv, .spi [b] (.ok 1)]
        returns := s.returns ++ [.ok] }) ∧
    (∀ n la sa, s.env.lineAnswers = .ok :: la → s.env.spiAnswers = .ok n :: sa →
      exec (i b) s = .next { s with
        seq := { s.seq with dc := .ofLevel lv }
        env := { s.env with lineAnswers := la, spiAnswers := sa }
        hist := s.hist ++ [.dc lv, .spi [b] (.ok (min n 1))]
        returns := s.returns ++ [.ok] }) ∧
    (∀ e la sa, s.env.lineAnswers = .ok :: la → s.env.spiAnswers = .err e :: sa →
      exec (i b) s = .next (errored .ready (.transport e) { s with
        seq := { s.seq with dc := .ofLevel lv }
        env := { s.env with lineAnswers := la, spiAnswers := sa }
        hist := s.hist ++ [.dc lv, .spi [b] (.err e)] })) ∧
    (∀ e la, s.env.lineAnswers = .err e :: la →
      exec (i b) s = .next (errored .ready (.transport e) { s with
        env := { s.env with lineAnswers := la }
        hist := s.hist ++ [.dc lv] }))

/-- SEND_COMMAND_BYTE (R111). -/
def Obligations.SendCommandByteWithDcLow : Prop := sendsOneByte .sendCommandByte .low

/-- SEND_DATA_BYTE (R112). -/
def Obligations.SendDataByteWithDcHigh : Prop := sendsOneByte .sendDataByte .high

/-- SEND_DATA (R113): one transaction for the whole sequence, of any length; a short write is logged and is no error; an error of
the transport or of the line write ends it. A count above the length is cut to it: log 3. READY after an error: log 14. -/
def Obligations.SendDataIsOneTransaction : Prop :=
  ∀ (bs : List Byte) (s : State), Idle s → s.seq.life ∈ [.ready, .resetDone, .sequenced] →
    (IdealCalls s →
      exec (.sendData bs) s = .next { s with
        seq := { s.seq with dc := .high }
        hist := s.hist ++ [.dc .high, .spi bs (.ok bs.length)]
        returns := s.returns ++ [.ok] }) ∧
    (∀ n la sa, s.env.lineAnswers = .ok :: la → s.env.spiAnswers = .ok n :: sa →
      exec (.sendData bs) s = .next { s with
        seq := { s.seq with dc := .high }
        env := { s.env with lineAnswers := la, spiAnswers := sa }
        hist := s.hist ++ (if n < bs.length then
            [.dc .high, .spi bs (.ok n), .partialWrite bs.length n]
          else [.dc .high, .spi bs (.ok bs.length)])
        returns := s.returns ++ [.ok] }) ∧
    (∀ e la sa, s.env.lineAnswers = .ok :: la → s.env.spiAnswers = .err e :: sa →
      exec (.sendData bs) s = .next (errored .ready (.transport e) { s with
        seq := { s.seq with dc := .high }
        env := { s.env with lineAnswers := la, spiAnswers := sa }
        hist := s.hist ++ [.dc .high, .spi bs (.err e)] })) ∧
    (∀ e la, s.env.lineAnswers = .err e :: la →
      exec (.sendData bs) s = .next (errored .ready (.transport e) { s with
        env := { s.env with lineAnswers := la }
        hist := s.hist ++ [.dc .high] }))

/-- WAIT_BUSY (R116): after `k` samples that read busy and one that reads ready it has taken `k + 1` samples and `k` sleeps of
200 ms, and returns. -/
def Obligations.WaitBusyReturnsAtFirstReadySample : Prop :=
  ∀ (k : Nat) (rest : List BusyAnswer) (s : State), Idle s → s.seq.life ∈ [.ready, .resetDone, .sequenced] →
    s.env.busySamples = List.replicate k (.level 0) ++ .level 1 :: rest →
    exec .waitBusy s = .next { s with
      env := { s.env with busySamples := rest }
      hist := s.hist ++ (List.replicate k [Event.busy 0, Event.sleep 200]).flatten ++ [.busy 1]
      returns := s.returns ++ [.ok] }

/-- WAIT_BUSY's errors (R115, R150): a sample other than 0 and 1 raises UnexpectedSignal at once; an error of the platform is raised
before any event, so that with no sample before it the lifecycle value stays (R132); else it is READY: log 14. -/
def Obligations.WaitBusyRaisesAtOnce : Prop :=
  ∀ (k : Nat) (rest : List BusyAnswer) (s : State), Idle s → s.seq.life ∈ [.ready, .resetDone, .sequenced] →
    (∀ v, v ≠ 0 → v ≠ 1 → s.env.busySamples = busySamples k ++ .level v :: rest →
      exec .waitBusy s = .next (errored .ready (.unexpectedSignal v) { s with
        env := { s.env with busySamples := rest }
        hist := s.hist ++ busyEvents k ++ [.busy v] })) ∧
    (∀ e, s.env.busySamples = busySamples k ++ .err e :: rest →
      exec .waitBusy s = .next (errored (if k = 0 then s.seq.life else .ready) (.transport e) { s with
        env := { s.env with busySamples := rest }
        hist := s.hist ++ busyEvents k }))

/-- No timeout (R117): while every sample reads busy, however many there are, WAIT_BUSY returns nothing and raises nothing; it stays in
progress, and so does every operation that stands in its WAIT_BUSY at every further step at which HOST waits (R16), while the history
grows, be the sample one at hand or the free draw (R114). The form of an operation in progress is log 4, that of HOST's waiting log 1,
that of the samples log 2. -/
def Obligations.BusyPanelKeepsTheOperationWaiting : Prop :=
  (∀ (k : Nat) (s : State), Idle s → s.seq.life ∈ [.ready, .resetDone, .sequenced] → s.env.busySamples = busySamples k →
    exec .waitBusy s = .next { s with
      env := { s.env with busySamples := [] }
      hist := s.hist ++ busyEvents k
      pending := some ⟨.waitBusy, s.hist.length⟩ }) ∧
  (∀ (k : Nat) (v : Env) (p : Pending) (s : State), s.pending = some p → hostWaits s = true → PolledBusy s k v →
    step s = .next { s with
      env := v
      hist := s.hist ++ busyEvents (k + 1) })

/-- An operation that stands in its WAIT_BUSY while HOST waits (R16) goes on when a sample, at hand or drawn (R114), reads ready: the
panel-setting command and its parameter after 0x04 (R135), the deep-sleep command and 0xA5 after 0x02 (R142), nothing more for the
others; PRINT_IMAGE's planes are then dead (log 13). The form of an operation in progress is log 4, that of HOST's waiting log 1, that
of the samples log 2. -/
def Obligations.WaitingOperationGoesOnWhenReady : Prop :=
  ∀ (k : Nat) (v : Env) (p : Pending) (s : State), s.pending = some p → hostWaits s = true → Polled s k (.level 1) v →
    (p.op = .firstSequence → IdealCalls s →
      step s = .next { s with
        seq := { s.seq with dc := .high, life := .sequenced }
        env := v
        hist := s.hist ++ (waitEvents k ++ byteEvents .low 0x00 ++ byteEvents .high Config.hw.psrP0)
        pending := none
        returns := s.returns ++ [.ok] }) ∧
    (p.op = .close → IdealCalls s →
      step s = .next { s with
        seq := { s.seq with dc := .high, life := .closed }
        env := v
        hist := s.hist ++ (waitEvents k ++ byteEvents .low 0x07 ++ byteEvents .high 0xA5)
        pending := none
        returns := s.returns ++ [.ok] }) ∧
    (p.op = .printImage →
      step s = .next { s with
        env := v
        hist := s.hist ++ waitEvents k
        pending := none
        planeK := []
        planeR := []
        returns := s.returns ++ [.ok] }) ∧
    (p.op ≠ .firstSequence → p.op ≠ .close → p.op ≠ .printImage →
      step s = .next { s with
        env := v
        hist := s.hist ++ waitEvents k
        pending := none
        returns := s.returns ++ [.ok] })

/-! ## The panel commands -/

/-- PANEL_SETTING, BOOSTER_SOFT_START and DEEP_SLEEP (R120, R123, R124): the command byte with DC low, each parameter with DC high;
no wait follows. The four open bytes are whatever they are (R7). That they are emitted alone, and when, is the model's choice (log 6). -/
def Obligations.CommandsWithParameters : Prop :=
  ∀ s : State, Idle s → s.seq.life ∈ [.ready, .resetDone, .sequenced] → IdealCalls s →
    exec .panelSetting s = .next { s with
      seq := { s.seq with dc := .high }
      hist := s.hist ++ (byteEvents .low 0x00 ++ byteEvents .high Config.hw.psrP0)
      returns := s.returns ++ [.ok] } ∧
    exec .boosterSoftStart s = .next { s with
      seq := { s.seq with dc := .high }
      hist := s.hist ++ (byteEvents .low 0x06 ++ byteEvents .high Config.hw.btstP0 ++ byteEvents .high Config.hw.btstP1 ++
        byteEvents .high Config.hw.btstP2)
      returns := s.returns ++ [.ok] } ∧
    exec .deepSleep s = .next { s with
      seq := { s.seq with dc := .high }
      hist := s.hist ++ (byteEvents .low 0x07 ++ byteEvents .high 0xA5)
      returns := s.returns ++ [.ok] }

/-- POWER_OFF, POWER_ON and DISPLAY_REFRESH (R121, R122, R126): the command byte with DC low, then the wait. Emitted alone: log 6. -/
def Obligations.CommandsFollowedByWait : Prop :=
  ∀ (k : Nat) (rest : List BusyAnswer) (s : State), Idle s → s.seq.life ∈ [.ready, .resetDone, .sequenced] → IdealCalls s →
    s.env.busySamples = readyAfter k rest →
    ∀ i b, (i, b) ∈ [(Instr.powerOff, (0x02 : Byte)), (.powerOn, 0x04), (.displayRefresh, 0x12)] →
      exec i s = .next { s with
        seq := { s.seq with dc := .low }
        env := { s.env with busySamples := rest }
        hist := s.hist ++ (byteEvents .low b ++ waitEvents k)
        returns := s.returns ++ [.ok] }

/-- DATA_BLACK and DATA_RED (R119, R125, R127): the command byte once with DC low, then 300 rows with DC high, of each of the three
planes the rules name. Emitted alone with its plane as operand: log 6, log 7. -/
def Obligations.DataCommandsSendOnePlane : Prop :=
  ∀ (s : State), Idle s → s.seq.life ∈ [.ready, .resetDone, .sequenced] → IdealCalls s →
    ∀ (i : PlaneSource → Instr) (b : Byte) (col : Colour), (i, b, col) ∈ [(Instr.dataBlack, (0x10 : Byte), Colour.black), (.dataRed, 0x13, .red)] →
      exec (i .white) s = .next { s with
        seq := { s.seq with dc := .high }
        hist := s.hist ++ planeEvents b (whitePlane Config.hw)
        returns := s.returns ++ [.ok] } ∧
      (∀ n, exec (i (.stripe n)) s = .next { s with
        seq := { s.seq with dc := .high }
        hist := s.hist ++ planeEvents b (stripePlane Config.hw n)
        returns := s.returns ++ [.ok] }) ∧
      (∀ r, PanelSized r → ∃ t, exec (i (.encoded r)) s = .next t ∧
        t.hist = s.hist ++ planeEvents b (encodeRaster Config.hw (sample Config.hw r.space s)) ∧
        t.returns = s.returns ++ [.ok] ∧ t.seq = { s.seq with dc := .high } ∧ t.env = s.env ∧ t.inbox = s.inbox ∧
        t.refused = s.refused ∧ t.pending = none ∧ t.enc.active = false ∧
        memOf col.planeSpace t = [] ∧ (∀ sp, sp ≠ col.planeSpace → memOf sp t = memOf sp s)) ∧
      (∀ r, ¬ PanelSized r → exec (i (.encoded r)) s = .next (errored s.seq.life (.sizeMismatch r.w r.h) s))

/-! ## The composite operations -/

/-- INITIALIZE (R133) with every answer a success: seven events in order, no line level written, READY. -/
def Obligations.InitialiseAcquiresEverything : Prop :=
  ∀ s : State, Idle s → s.seq.life = .constructed → IdealCalls s →
    exec .initialise s = .next { s with
      seq := { s.seq with life := .ready }
      hist := s.hist ++ [.exported .busy, .exported .rst, .exported .dc, .direction .busy .input, .direction .rst .output,
        .direction .dc .output, .spiConfig ⟨4000000, 8, true, .low, .leading⟩]
      returns := s.returns ++ [.ok] }

/-- INITIALIZE's failures (R133, R149): a failing export or SPI configuration is ResourceUnavailable, a failing direction-set is
Transport; the block is then UNUSABLE and the history ends at the failing step. -/
def Obligations.InitialiseFailureLeavesUnusable : Prop :=
  ∀ s : State, Idle s → s.seq.life = .constructed →
    (∀ n rest, n < 3 → s.env.acquireAnswers = List.replicate n true ++ false :: rest →
      exec .initialise s = .next (errored .unusable .resourceUnavailable { s with
        env := { s.env with acquireAnswers := rest }
        hist := s.hist ++ initEvents.take (n + 1) })) ∧
    (∀ n e ra rd, n < 3 → s.env.acquireAnswers = true :: true :: true :: ra →
      s.env.directionAnswers = List.replicate n .ok ++ .err e :: rd →
      exec .initialise s = .next (errored .unusable (.transport e) { s with
        env := { s.env with acquireAnswers := ra, directionAnswers := rd }
        hist := s.hist ++ initEvents.take (n + 4) })) ∧
    (∀ ra rd, s.env.acquireAnswers = true :: true :: true :: false :: ra →
      s.env.directionAnswers = .ok :: .ok :: .ok :: rd →
      exec .initialise s = .next (errored .unusable .resourceUnavailable { s with
        env := { s.env with acquireAnswers := ra, directionAnswers := rd }
        hist := s.hist ++ initEvents }))

/-- RESET (R134, R174). On the ideal platform: high, low, high, each level held 200 ms; no byte, no DC write, no busy sample; RST
high, RESET_DONE; the same with three listed answers Ok. Where line write number `n + 1` fails: `seq.rst` holds the last level
written successfully, READY, the error Transport, and nothing of the pulse follows. -/
def Obligations.ResetGivesThePulse : Prop :=
  ∀ s : State, Idle s → s.seq.life ∈ [.ready, .resetDone, .sequenced] →
    (IdealCalls s →
      exec .reset s = .next { s with
        seq := { s.seq with rst := .high, life := .resetDone }
        hist := s.hist ++ [.rst .high, .sleep 200, .rst .low, .sleep 200, .rst .high, .sleep 200]
        returns := s.returns ++ [.ok] }) ∧
    (∀ rest, s.env.lineAnswers = .ok :: .ok :: .ok :: rest →
      exec .reset s = .next { s with
        seq := { s.seq with rst := .high, life := .resetDone }
        env := { s.env with lineAnswers := rest }
        hist := s.hist ++ [.rst .high, .sleep 200, .rst .low, .sleep 200, .rst .high, .sleep 200]
        returns := s.returns ++ [.ok] }) ∧
    (∀ n e rest, n < 3 → s.env.lineAnswers = List.replicate n .ok ++ .err e :: rest →
      exec .reset s = .next (errored .ready (.transport e) { s with
        seq := { s.seq with rst := if n = 0 then s.seq.rst else if n = 1 then .high else .low }
        env := { s.env with lineAnswers := rest }
        hist := s.hist ++ pulseEvents.take (2 * n + 1) }))

/-- FIRST_SEQUENCE (R135): 0x06 and its three parameters, 0x04, the wait, 0x00 and its parameter, in that order; SEQUENCED. -/
def Obligations.FirstSequenceInExactOrder : Prop :=
  ∀ (k : Nat) (rest : List BusyAnswer) (s : State), Idle s → s.seq.life = .resetDone → IdealCalls s →
    s.env.busySamples = readyAfter k rest →
    exec .firstSequence s = .next { s with
      seq := { s.seq with dc := .high, life := .sequenced }
      env := { s.env with busySamples := rest }
      hist := s.hist ++ (byteEvents .low 0x06 ++ byteEvents .high Config.hw.btstP0 ++ byteEvents .high Config.hw.btstP1 ++
        byteEvents .high Config.hw.btstP2 ++ byteEvents .low 0x04 ++ waitEvents k ++
        byteEvents .low 0x00 ++ byteEvents .high Config.hw.psrP0)
      returns := s.returns ++ [.ok] }

/-- The mandatory wait after power on (R178): until a sample reads ready, 0x04 is the last byte sent. The form of an operation in
progress is log 4. -/
def Obligations.NothingIsSentBeforePowerOnWaitEnds : Prop :=
  ∀ (k : Nat) (s : State), Idle s → s.seq.life = .resetDone → IdealCalls s → s.env.busySamples = busySamples k →
    exec .firstSequence s = .next { s with
      seq := { s.seq with dc := .low }
      env := { s.env with busySamples := [] }
      hist := s.hist ++ (byteEvents .low 0x06 ++ byteEvents .high Config.hw.btstP0 ++ byteEvents .high Config.hw.btstP1 ++
        byteEvents .high Config.hw.btstP2 ++ byteEvents .low 0x04 ++ busyEvents k)
      pending := some ⟨.firstSequence, s.hist.length⟩ }

/-- CLEAR_DISPLAY (R136): 0x10 and 300 rows of 50 bytes 0xFF, the same under 0x13, 0x12, the wait. -/
def Obligations.ClearDisplaySendsTwoWhitePlanes : Prop :=
  ∀ (k : Nat) (rest : List BusyAnswer) (s : State), Idle s → s.seq.life = .sequenced → IdealCalls s →
    s.env.busySamples = readyAfter k rest →
    exec .clearDisplay s = .next { s with
      seq := { s.seq with dc := .low }
      env := { s.env with busySamples := rest }
      hist := s.hist ++ (frameEvents (List.replicate 300 (List.replicate 50 0xFF)) (List.replicate 300 (List.replicate 50 0xFF)) ++
        waitEvents k)
      returns := s.returns ++ [.ok] }

/-- PRINT_TRICOLOR (R137): black rows 0 to 99 white and 100 to 299 ink, red rows 0 to 199 white and 200 to 299 ink. -/
def Obligations.PrintTricolorSendsTheStripes : Prop :=
  ∀ (k : Nat) (rest : List BusyAnswer) (s : State), Idle s → s.seq.life = .sequenced → IdealCalls s →
    s.env.busySamples = readyAfter k rest →
    exec .printTricolor s = .next { s with
      seq := { s.seq with dc := .low }
      env := { s.env with busySamples := rest }
      hist := s.hist ++ (frameEvents
        (List.replicate 100 (List.replicate 50 0xFF) ++ List.replicate 200 (List.replicate 50 0x00))
        (List.replicate 200 (List.replicate 50 0xFF) ++ List.replicate 100 (List.replicate 50 0x00)) ++ waitEvents k)
      returns := s.returns ++ [.ok] }

/-- PRINT_IMAGE (R139, R141): the encoded black plane under 0x10, the encoded red plane or the white plane under 0x13, 0x12, the
wait; the PLANE spaces are dead afterwards (R59, log 13). -/
def Obligations.PrintImageSendsTheEncodedPlanes : Prop :=
  ∀ (k : Nat) (rest : List BusyAnswer) (r : RasterArg) (red : Option RasterArg) (s : State), Idle s → s.seq.life = .sequenced →
    IdealCalls s → s.env.busySamples = readyAfter k rest → PanelSized r → (∀ q, red = some q → PanelSized q) →
    ∃ t, exec (.printImage r red) s = .next t ∧
      t.hist = s.hist ++ (frameEvents (encodeRaster Config.hw (sample Config.hw r.space s))
        (match red with
          | none => List.replicate 300 (List.replicate 50 0xFF)
          | some q => encodeRaster Config.hw (sample Config.hw q.space s)) ++ waitEvents k) ∧
      t.returns = s.returns ++ [.ok] ∧ t.seq = { s.seq with dc := .low } ∧
      t.env = { s.env with busySamples := rest } ∧ t.inbox = s.inbox ∧ t.refused = s.refused ∧ t.pending = none ∧
      t.enc.active = false ∧ t.rasterK = s.rasterK ∧ t.rasterR = s.rasterR ∧ t.planeK = [] ∧ t.planeR = []

/-- What PRINT_IMAGE stores (R42, R91), seen while it waits for PANEL: PLANE_K holds the encoding of the first raster and PLANE_R that of
the second, each byte at `y * 50 + k`; every other byte of the four spaces reads as before. The form of an
operation in progress is log 4. -/
def Obligations.PrintImageStoresThePlanes : Prop :=
  ∀ (j : Nat) (r : RasterArg) (red : Option RasterArg) (s : State), Idle s → s.seq.life = .sequenced →
    IdealCalls s → s.env.busySamples = busySamples j → PanelSized r → (∀ q, red = some q → PanelSized q) →
    ∃ t, exec (.printImage r red) s = .next t ∧ t.pending = some ⟨.printImage, s.hist.length⟩ ∧ t.returns = s.returns ∧
      (∀ y k, y < 300 → k < 50 →
        readByte .planeK t (y * 50 + k) = encodeGroup Config.hw (sample Config.hw r.space s) y k ∧
        readByte .planeR t (y * 50 + k) =
          match red with
          | none => readByte .planeR s (y * 50 + k)
          | some q => encodeGroup Config.hw (sample Config.hw q.space s) y k) ∧
      (∀ a, 15000 ≤ a → readByte .planeK t a = readByte .planeK s a ∧ readByte .planeR t a = readByte .planeR s a) ∧
      t.rasterK = s.rasterK ∧ t.rasterR = s.rasterR

/-- CLOSE (R142): 0x02, the wait, 0x07 and 0xA5, in that order, and nothing after; CLOSED. -/
def Obligations.CloseInExactOrder : Prop :=
  ∀ (k : Nat) (rest : List BusyAnswer) (s : State), Idle s → s.seq.life ∈ [.ready, .resetDone, .sequenced] → IdealCalls s →
    s.env.busySamples = readyAfter k rest →
    exec .close s = .next { s with
      seq := { s.seq with dc := .high, life := .closed }
      env := { s.env with busySamples := rest }
      hist := s.hist ++ (byteEvents .low 0x02 ++ waitEvents k ++ byteEvents .low 0x07 ++ byteEvents .high 0xA5)
      returns := s.returns ++ [.ok] }

/-- The sizes of R145, with `b` busy samples the last of which reads ready: events, SPI transactions and bytes of each composite
operation and of WAIT_BUSY. -/
def Obligations.SizesOfTheSequences : Prop :=
  ∀ (b : Nat) (rest : List BusyAnswer) (s : State) (r : RasterArg) (red : Option RasterArg), 1 ≤ b → Idle s → IdealCalls s →
    s.env.busySamples = readyAfter (b - 1) rest → PanelSized r → (∀ q, red = some q → PanelSized q) →
    ∀ i life events transactions bytes,
      (i, life, events, transactions, bytes) ∈
        [(Instr.initialise, Life.constructed, 7, 0, 0), (.reset, .ready, 6, 0, 0), (.waitBusy, .ready, 2 * b - 1, 0, 0),
         (.firstSequence, .resetDone, 14 + (2 * b - 1), 7, 7), (.clearDisplay, .sequenced, 1206 + (2 * b - 1), 603, 30003),
         (.printTricolor, .sequenced, 1206 + (2 * b - 1), 603, 30003),
         (.printImage r red, .sequenced, 1206 + (2 * b - 1), 603, 30003), (.close, .sequenced, 6 + (2 * b - 1), 3, 3)] →
      s.seq.life = life →
      ∃ t l, exec i s = .next t ∧ t.hist = s.hist ++ l ∧ t.returns = s.returns ++ [.ok] ∧
        l.length = events ∧ spiCount l = transactions ∧ (bytesSent l).length = bytes

/-- R152: however short the transport's writes are, a sequence goes on: every composite operation that sends bytes requests all of
them in all its transactions, returns Ok, and moves the lifecycle value as on success. -/
def Obligations.ShortWritesNeverStopASequence : Prop :=
  ∀ (k : Nat) (rest : List BusyAnswer) (s : State) (r : RasterArg) (red : Option RasterArg), Idle s →
    s.env.ideal = true → s.env.lineAnswers = [] → (∀ a ∈ s.env.spiAnswers, ∃ n, a = .ok n) →
    s.env.busySamples = readyAfter k rest → PanelSized r → (∀ q, red = some q → PanelSized q) →
    ∀ i dc transactions bytes,
      (i, dc, transactions, bytes) ∈
        [(Instr.firstSequence, LastLevel.high, 7,
            [(0x06 : Byte), Config.hw.btstP0, Config.hw.btstP1, Config.hw.btstP2, 0x04, 0x00, Config.hw.psrP0]),
         (.clearDisplay, .low, 603,
            frameBytes (List.replicate 300 (List.replicate 50 0xFF)) (List.replicate 300 (List.replicate 50 0xFF))),
         (.printTricolor, .low, 603, frameBytes
            (List.replicate 100 (List.replicate 50 0xFF) ++ List.replicate 200 (List.replicate 50 0x00))
            (List.replicate 200 (List.replicate 50 0xFF) ++ List.replicate 100 (List.replicate 50 0x00))),
         (.printImage r red, .low, 603, frameBytes (encodeRaster Config.hw (sample Config.hw r.space s))
            (match red with
              | none => List.replicate 300 (List.replicate 50 0xFF)
              | some q => encodeRaster Config.hw (sample Config.hw q.space s))),
         (.close, .high, 3, [0x02, 0x07, 0xA5])] →
      s.seq.life ∈ admittedIn i →
      ∃ t l, exec i s = .next t ∧ t.returns = s.returns ++ [.ok] ∧ t.hist = s.hist ++ l ∧ t.pending = none ∧
        t.seq = { s.seq with dc := dc, life := lifeAfterOk i s.seq.life } ∧ spiCount l = transactions ∧ bytesSent l = bytes

/-! ## Admission, errors, histories -/

/-- Refusal (R157): an operation that is not admitted (R132, R16), a reserved operation code (R78) and misuse of ENC's stream (R106)
change nothing but the run's refusal mark (log 5), and so does an operation, a START or a raster that HOST issues while an operation
is in progress (R16, R184, R187; log 20). Where a panel command emitted alone is admitted: log 6. HOST's moves: log 1. -/
def Obligations.RefusalChangesNothing : Prop :=
  (∀ (i : Instr) (s : State), ¬ (Idle s ∧ s.seq.life ∈ admittedIn i) → exec i s = .next { s with refused := true }) ∧
  (∀ (op : BitVec 4) (a : Args) (rest : List HostMove) (s : State), s.inbox = .call (.hostOp op a) :: rest →
    12 ≤ op.toNat → step s = .next { s with inbox := rest, refused := true }) ∧
  (∀ (col : Colour) (w h : Nat) (rest : List HostMove) (s : State), s.enc.active = true →
    s.inbox = .start col w h :: rest → step s = .next { s with inbox := rest, refused := true }) ∧
  (∀ (px : Byte) (rest : List HostMove) (s : State), s.enc.active = false →
    s.inbox = .pixIn px :: rest → step s = .next { s with inbox := rest, refused := true }) ∧
  (∀ (m : HostMove) (rest : List HostMove) (s : State), ¬ Idle s → s.inbox = m :: rest →
    (∃ c, m = .call c) ∨ (∃ col bs, m = .supply col bs) ∨ (∃ col w h, m = .start col w h) →
    step s = .next { s with inbox := rest, refused := true })

/-- Admission (R132) the other way: an operation issued in a lifecycle value that admits it, with no other in progress, is never
refused. -/
def Obligations.AdmittedOperationIsNotRefused : Prop :=
  ∀ (i : Instr) (s : State), Idle s → s.seq.life ∈ admittedIn i → ∃ t, exec i s = .next t ∧ t.refused = s.refused

/-- The lifecycle after an operation (R131, R132): on success as the table says; on an error unchanged if nothing was emitted, else
UNUSABLE for INITIALIZE and READY for every other; unchanged while it stands in its WAIT_BUSY. For a primitive or a panel command that
fails: log 14. -/
def Obligations.LifecycleAfterAnOperation : Prop :=
  ∀ (i : Instr) (s : State), Idle s → s.seq.life ∈ admittedIn i →
    ∃ t, exec i s = .next t ∧
      ((t.pending = none ∧ ∃ r, t.returns = s.returns ++ [r] ∧
          (r.isOk = true → t.seq.life = lifeAfterOk i s.seq.life) ∧
          (r.isOk = false → t.hist = s.hist → t.seq.life = s.seq.life) ∧
          (r.isOk = false → t.hist ≠ s.hist → t.seq.life = if i = .initialise then .unusable else .ready)) ∨
       (∃ op, t.pending = some ⟨op, s.hist.length⟩ ∧ t.returns = s.returns ∧ t.seq.life = s.seq.life))

/-- The lifecycle after a step while an operation stands in its WAIT_BUSY (R131, R132): a further poll, or a move of HOST's that is
refused and leaves it there (R157). -/
def Obligations.LifecycleAfterAWait : Prop :=
  ∀ (p : Pending) (s : State), s.pending = some p →
    ∃ t, step s = .next t ∧
      ((t.pending = none ∧ ∃ r, t.returns = s.returns ++ [r] ∧
          (r.isOk = true → t.seq.life =
            if p.op = .firstSequence then .sequenced else if p.op = .close then .closed else s.seq.life) ∧
          (r.isOk = false → t.seq.life = if t.hist.length = p.start then s.seq.life else .ready)) ∨
       (t.pending = some p ∧ t.returns = s.returns ∧ t.seq.life = s.seq.life))

/-- The sticky record (R170): once set it is never changed by any step; while none, it takes the kind of the first error a step
returns. -/
def Obligations.ErrorRecordIsSticky : Prop :=
  ∀ s t : State, step s = .next t →
    (∀ k, s.seq.err = some k → t.seq.err = some k) ∧
    (s.seq.err = none → t.seq.err = firstErrorKind (t.returns.drop s.returns.length))

/-- Abort (R155, R160): an event that shows a raised error is the last the operation emits, and the operation returns an error. It is
so of an instruction, and of every step, the later polls of an operation that stands in its WAIT_BUSY among them. -/
def Obligations.RaisingEventIsTheLast : Prop :=
  ∀ (s t : State) (l l' : List Event) (e : Event), (∃ i, exec i s = .next t) ∨ step s = .next t →
    t.hist = s.hist ++ l ++ e :: l' → e.raises = true →
    l' = [] ∧ t.pending = none ∧ ∃ x, t.returns = s.returns ++ [.error x]

/-- After CLOSE (R143): every operation but ENCODE_PLANE is refused, ENCODE_PLANE is admitted, the wire history never grows again,
and the block stays CLOSED. -/
def Obligations.NothingIsSentAfterClose : Prop :=
  (∀ (i : Instr) (s : State), s.seq.life = .closed → (∀ r, i ≠ .encodePlane r) → exec i s = .next { s with refused := true }) ∧
  (∀ (r : RasterArg) (s : State), s.seq.life = .closed → Idle s → ∃ t, exec (.encodePlane r) s = .next t ∧ t.refused = s.refused) ∧
  (∀ s t : State, s.seq.life = .closed → s.pending = none → step s = .next t →
    t.hist = s.hist ∧ t.seq.life = .closed ∧ t.pending = none)

/-- All four resources or nothing (R185): in CONSTRUCTED or UNUSABLE no operation of SEQ but INITIALIZE from CONSTRUCTED is admitted,
and nothing but INITIALIZE's own exports, directions and configuration is ever emitted. -/
def Obligations.NothingIsDrivenWithoutTheResources : Prop :=
  ∀ (i : Instr) (s : State), s.seq.life = .constructed ∨ s.seq.life = .unusable →
    (i ≠ .initialise ∨ s.seq.life = .unusable → (∀ r, i ≠ .encodePlane r) → exec i s = .next { s with refused := true }) ∧
    (∀ t, exec i s = .next t → ∃ l, t.hist = s.hist ++ l ∧ (∀ e ∈ l, e.isTraffic = false) ∧
      t.seq.dc = s.seq.dc ∧ t.seq.rst = s.seq.rst)

/-- R55: the histories are total orders that only grow. -/
def Obligations.HistoriesOnlyGrow : Prop :=
  ∀ s t : State, step s = .next t →
    s.hist <+: t.hist ∧ s.returns <+: t.returns ∧ s.chan <+: t.chan ∧ (s.refused = true → t.refused = true)

/-- Line before byte (R56): if every SPI event of the history comes directly after the DC event that sets the level for it, so it is
after every step. -/
def Obligations.DcLineIsWrittenBeforeEveryTransaction : Prop :=
  ∀ s t : State, dcFramed false s.hist = true → step s = .next t → dcFramed false t.hist = true

/-- The frame of the instructions that do not use ENC: ENC's registers, the four address spaces, HOST's queue and ENC's channels are
unchanged; only RESET writes `seq.rst` (R29); RESET, INITIALIZE and WAIT_BUSY do not write `seq.dc` (R28). -/
def Obligations.FrameOfTheSequencer : Prop :=
  ∀ (i : Instr) (s t : State), usesEnc i = false → exec i s = .next t →
    t.enc = s.enc ∧ t.rasterK = s.rasterK ∧ t.rasterR = s.rasterR ∧ t.planeK = s.planeK ∧ t.planeR = s.planeR ∧
    t.inbox = s.inbox ∧ t.chan = s.chan ∧ t.fresh = s.fresh ∧ (i ≠ .reset → t.seq.rst = s.seq.rst) ∧
    (i = .reset ∨ i = .initialise ∨ i = .waitBusy → t.seq.dc = s.seq.dc)

/-- The frame of the instructions that use ENC, on any platform: the rasters (R96), HOST's queue and the reset line are unchanged;
ENCODE_PLANE and a data command write no PLANE space but their own, and ENCODE_PLANE nothing of SEQ but the error record. -/
def Obligations.FrameOfTheEncoder : Prop :=
  ∀ (i : Instr) (s t : State), usesEnc i = true → exec i s = .next t →
    t.rasterK = s.rasterK ∧ t.rasterR = s.rasterR ∧ t.inbox = s.inbox ∧ t.seq.rst = s.seq.rst ∧
    (∀ r, i = .encodePlane r → t.seq.dc = s.seq.dc ∧ t.seq.life = s.seq.life ∧ t.env = s.env ∧ t.hist = s.hist ∧
      ∀ sp, sp ≠ r.space.planeSpace → memOf sp t = memOf sp s) ∧
    (∀ r, i = .dataBlack (.encoded r) → t.planeR = s.planeR) ∧
    (∀ r, i = .dataRed (.encoded r) → t.planeK = s.planeK)

/-- A raster is written by no agent of the block (R18): whatever a step does, the RASTER spaces change only by HOST's own supply. -/
def Obligations.RastersChangeOnlyByHost : Prop :=
  ∀ s t : State, step s = .next t → (s.pending = none → ∀ col bs, s.inbox.head? ≠ some (.supply col bs)) →
    t.rasterK = s.rasterK ∧ t.rasterR = s.rasterR

/-- A raster HOST supplies between two operations is what the next operation reads (R41, R58): its samples stand in its RASTER space
from address 0, the addresses past them hold no defined value (log 12), and of the rest of State only the move taken from HOST's
queue (log 1) changes. While an operation stands in its WAIT_BUSY no raster changes (R186), and no move is taken while HOST waits. -/
def Obligations.HostSuppliesRastersBetweenOperations : Prop :=
  (∀ (col : Colour) (bs : List Byte) (rest : List HostMove) (s : State), Idle s → s.inbox = .supply col bs :: rest →
    ∃ t, step s = .next t ∧ (∀ (a : Nat) (b : Byte), bs[a]? = some b → readByte col.rasterSpace t a = b) ∧
      (∀ a, bs.length ≤ a → readByte col.rasterSpace t a = Config.unwritten col.rasterSpace a) ∧
      (∀ sp, sp ≠ col.rasterSpace → memOf sp t = memOf sp s) ∧
      t.inbox = rest ∧ t.seq = s.seq ∧ t.enc = s.enc ∧ t.hist = s.hist ∧ t.returns = s.returns ∧ t.refused = s.refused ∧
      t.env = s.env ∧ t.pending = s.pending ∧ t.chan = s.chan ∧ t.fresh = s.fresh) ∧
  (∀ (p : Pending) (s t : State), s.pending = some p → step s = .next t →
    t.rasterK = s.rasterK ∧ t.rasterR = s.rasterR ∧ (hostWaits s = true → t.inbox = s.inbox))

/-- The block never reads `seq.dc`, `seq.rst` or `seq.err` (R28, R29, R31): two states that differ only there are led to states that
differ only there, by every instruction and by every step, the later polls of an operation in its WAIT_BUSY and ENC's stream among
them. -/
def Obligations.ReportedLevelsAndErrorAreNeverRead : Prop :=
  ∀ (f : State → Host.Outcome State Fault Refusal) (s : State) (dc rst : LastLevel) (err : Option ErrorKind),
    (∃ i, f = exec i) ∨ f = step →
    ∃ t dc' rst' err',
      f s = .next t ∧
      f { s with seq := { s.seq with dc := dc, rst := rst, err := err } } =
        .next { t with seq := { t.seq with dc := dc', rst := rst', err := err' } }

/-! ## Encodings, steps, the invariant -/

/-- Decoding the encoding of any well-formed instruction gives it back, with every operand (R69, R76). The form of a call is log 8. -/
def Obligations.DecodeOfEncodeIsTheInstruction : Prop := ∀ i : Instr, i.wellFormed = true → decode (encode i) = .ok i

/-- A call the decoder accepts is the encoding of the instruction it gives, which is well formed: no two calls are read alike.
The form of a call is log 8. -/
def Obligations.EncodeOfDecodeIsTheCall : Prop :=
  ∀ (c : Call) (i : Instr), decode c = .ok i → encode i = c ∧ i.wellFormed = true

/-- The reserved encodings (R72, R78) are rejected by name, whatever the operands. The form of a call is log 8. -/
def Obligations.ReservedCodesAreRejected : Prop :=
  (∀ (op : BitVec 4) (a : Args), 12 ≤ op.toNat → decode (.hostOp op a) = .error (.reservedOperation op)) ∧
  (∀ (code : Byte) (a : Args), code ∉ [(0x00 : Byte), 0x02, 0x04, 0x06, 0x07, 0x10, 0x12, 0x13] →
    decode (.panelCmd code a) = .error (.reservedCommand code))

/-- Codes written out from the tables of R69 and R76. -/
def Obligations.CodesOfTheTable : Prop :=
  decode (.hostOp 0b0001#4 ⟨[], [], none⟩) = .ok .reset ∧
  decode (.hostOp 0b0011#4 ⟨[0xA5], [], none⟩) = .ok (.sendDataByte 0xA5) ∧
  decode (.hostOp 0b1011#4 ⟨[], [⟨.red, 400, 300⟩], none⟩) = .ok (.encodePlane ⟨.red, 400, 300⟩) ∧
  decode (.panelCmd 0b00010010#8 ⟨[], [], none⟩) = .ok .displayRefresh ∧
  decodeTableWord 8 0x05 = some .waitBusy ∧ decodeTableWord 8 0x12 = some .displayRefresh

/-- A step runs the decoded instruction: when HOST's next move is a call that decodes to `i`, the step is `exec i` with the call taken
from the queue, whether or not an operation stands in its WAIT_BUSY (`exec` then refuses it); and `withFetchWord` places such a call. -/
def Obligations.StepRunsTheDecodedInstruction : Prop :=
  (∀ (c : Call) (i : Instr) (rest : List HostMove) (s : State), s.inbox = .call c :: rest →
    decode c = .ok i → step s = exec i { s with inbox := rest }) ∧
  (∀ (nbits w : Nat) (i : Instr) (s : State), decodeTableWord nbits w = some i →
    step (s.withFetchWord nbits w) = exec i { s with pending := none })

/-- The state at construction (R172). -/
def Obligations.ConstructionState : Prop :=
  State.reset.seq.life = .constructed ∧ State.reset.seq.dc = .unknown ∧ State.reset.seq.rst = .unknown ∧
    State.reset.seq.err = none ∧ State.reset.hist = [] ∧ State.reset.enc.active = false ∧
    State.reset.planeK = [] ∧ State.reset.planeR = []

/-- The invariant holds at construction. -/
def Obligations.InvariantHoldsAtConstruction : Prop := Inv Config.hw State.reset

/-- Every step keeps the invariant, from every state that has it: the canonical memories, the ranges of R22, the accumulator of R23, the
lifecycle of an operation in its WAIT_BUSY, RST high after RESET (R29), silence without the resources (R185), `seq.err` the first error
returned (R31, R170), and DC before every SPI event (R56). -/
def Obligations.EveryStepKeepsTheInvariant : Prop :=
  ∀ s t : State, Inv Config.hw s → step s = .next t → Inv Config.hw t

/-- R151: on the ideal platform, which never reports an error, no step returns a Transport error or shows one on the SPI channel, and the
platform stays ideal. That a busy sample not listed is then a level is log 2. -/
def Obligations.IdealPlatformNeverRaisesTransport : Prop :=
  ∀ s t : State, IdealPlatform s → step s = .next t →
    IdealPlatform t ∧ ∃ results events, t.returns = s.returns ++ results ∧ t.hist = s.hist ++ events ∧
      (∀ e, OpResult.error (.transport e) ∉ results) ∧ (∀ bytes e, Event.spi bytes (.err e) ∉ events)

/-- Abort of an operation that stands in its WAIT_BUSY while HOST waits (R155): a sample, at hand or drawn (R114), outside 0 and 1 raises
UnexpectedSignal with no sleep after it (R115, R150), an error of the platform raises Transport with no event (R114, R151); the operation
returns the error, nothing of the rest of its sequence happens, the lifecycle value is READY, or unchanged if it has emitted no event
(R132), and PRINT_IMAGE's planes are dead (log 13). For a primitive or a panel command: log 14. The form of an operation in progress is
log 4, that of HOST's waiting log 1, that of the samples log 2. -/
def Obligations.WaitingOperationRaisesAtOnce : Prop :=
  ∀ (k : Nat) (a : BusyAnswer) (v : Env) (p : Pending) (s : State), s.pending = some p → hostWaits s = true → Polled s k a v →
    ∀ e l, ((∃ u, u ≠ 0 ∧ u ≠ 1 ∧ a = .level u ∧ e = .unexpectedSignal u ∧ l = busyEvents k ++ [.busy u]) ∨
        (∃ x, a = .err x ∧ e = .transport x ∧ l = busyEvents k)) →
      step s = .next (errored (if s.hist.length + l.length = p.start then s.seq.life else .ready) e { s with
        env := v
        hist := s.hist ++ l
        pending := none
        planeK := if p.op = .printImage then [] else s.planeK
        planeR := if p.op = .printImage then [] else s.planeR })
end

