-- ==== Sys2Proof/Laws/State.lean ====
section
/-! SUPPORT. For every update of the state, what each field is after it. -/
namespace Sys2Proof.Machine

/-! ## `noteError` -/

@[simp] theorem noteError_enc (e : Error) (s : State) : (noteError e s).enc = s.enc := rfl
@[simp] theorem noteError_seq_dc (e : Error) (s : State) : (noteError e s).seq.dc = s.seq.dc := rfl
@[simp] theorem noteError_seq_rst (e : Error) (s : State) : (noteError e s).seq.rst = s.seq.rst := rfl
@[simp] theorem noteError_seq_life (e : Error) (s : State) : (noteError e s).seq.life = s.seq.life := rfl
@[simp] theorem noteError_seq_err (e : Error) (s : State) : (noteError e s).seq.err = stickyErr s.seq.err e := rfl
@[simp] theorem noteError_rasterK (e : Error) (s : State) : (noteError e s).rasterK = s.rasterK := rfl
@[simp] theorem noteError_rasterR (e : Error) (s : State) : (noteError e s).rasterR = s.rasterR := rfl
@[simp] theorem noteError_planeK (e : Error) (s : State) : (noteError e s).planeK = s.planeK := rfl
@[simp] theorem noteError_planeR (e : Error) (s : State) : (noteError e s).planeR = s.planeR := rfl
@[simp] theorem noteError_pending (e : Error) (s : State) : (noteError e s).pending = s.pending := rfl
@[simp] theorem noteError_inbox (e : Error) (s : State) : (noteError e s).inbox = s.inbox := rfl
@[simp] theorem noteError_env (e : Error) (s : State) : (noteError e s).env = s.env := rfl
@[simp] theorem noteError_hist (e : Error) (s : State) : (noteError e s).hist = s.hist := rfl
@[simp] theorem noteError_chan (e : Error) (s : State) : (noteError e s).chan = s.chan := rfl
@[simp] theorem noteError_returns (e : Error) (s : State) : (noteError e s).returns = s.returns := rfl
@[simp] theorem noteError_refused (e : Error) (s : State) : (noteError e s).refused = s.refused := rfl
@[simp] theorem noteError_fresh (e : Error) (s : State) : (noteError e s).fresh = s.fresh := rfl

/-! ## `giveBack` -/

@[simp] theorem giveBack_enc (r : OpResult) (s : State) : (giveBack r s).enc = s.enc := rfl
@[simp] theorem giveBack_seq (r : OpResult) (s : State) : (giveBack r s).seq = s.seq := rfl
@[simp] theorem giveBack_rasterK (r : OpResult) (s : State) : (giveBack r s).rasterK = s.rasterK := rfl
@[simp] theorem giveBack_rasterR (r : OpResult) (s : State) : (giveBack r s).rasterR = s.rasterR := rfl
@[simp] theorem giveBack_planeK (r : OpResult) (s : State) : (giveBack r s).planeK = s.planeK := rfl
@[simp] theorem giveBack_planeR (r : OpResult) (s : State) : (giveBack r s).planeR = s.planeR := rfl
@[simp] theorem giveBack_pending (r : OpResult) (s : State) : (giveBack r s).pending = none := rfl
@[simp] theorem giveBack_inbox (r : OpResult) (s : State) : (giveBack r s).inbox = s.inbox := rfl
@[simp] theorem giveBack_env (r : OpResult) (s : State) : (giveBack r s).env = s.env := rfl
@[simp] theorem giveBack_hist (r : OpResult) (s : State) : (giveBack r s).hist = s.hist := rfl
@[simp] theorem giveBack_chan (r : OpResult) (s : State) : (giveBack r s).chan = s.chan := rfl
@[simp] theorem giveBack_returns (r : OpResult) (s : State) : (giveBack r s).returns = s.returns ++ [r] := rfl
@[simp] theorem giveBack_refused (r : OpResult) (s : State) : (giveBack r s).refused = s.refused := rfl
@[simp] theorem giveBack_fresh (r : OpResult) (s : State) : (giveBack r s).fresh = s.fresh := rfl

/-! ## `refuse` -/

@[simp] theorem refuse_enc (s : State) : (refuse s).enc = s.enc := rfl
@[simp] theorem refuse_seq (s : State) : (refuse s).seq = s.seq := rfl
@[simp] theorem refuse_rasterK (s : State) : (refuse s).rasterK = s.rasterK := rfl
@[simp] theorem refuse_rasterR (s : State) : (refuse s).rasterR = s.rasterR := rfl
@[simp] theorem refuse_planeK (s : State) : (refuse s).planeK = s.planeK := rfl
@[simp] theorem refuse_planeR (s : State) : (refuse s).planeR = s.planeR := rfl
@[simp] theorem refuse_pending (s : State) : (refuse s).pending = s.pending := rfl
@[simp] theorem refuse_inbox (s : State) : (refuse s).inbox = s.inbox := rfl
@[simp] theorem refuse_env (s : State) : (refuse s).env = s.env := rfl
@[simp] theorem refuse_hist (s : State) : (refuse s).hist = s.hist := rfl
@[simp] theorem refuse_chan (s : State) : (refuse s).chan = s.chan := rfl
@[simp] theorem refuse_returns (s : State) : (refuse s).returns = s.returns := rfl
@[simp] theorem refuse_refused (s : State) : (refuse s).refused = true := rfl
@[simp] theorem refuse_fresh (s : State) : (refuse s).fresh = s.fresh := rfl

/-! ## `setEnv` -/

@[simp] theorem setEnv_enc (v : Env) (s : State) : (setEnv v s).enc = s.enc := rfl
@[simp] theorem setEnv_seq (v : Env) (s : State) : (setEnv v s).seq = s.seq := rfl
@[simp] theorem setEnv_rasterK (v : Env) (s : State) : (setEnv v s).rasterK = s.rasterK := rfl
@[simp] theorem setEnv_rasterR (v : Env) (s : State) : (setEnv v s).rasterR = s.rasterR := rfl
@[simp] theorem setEnv_planeK (v : Env) (s : State) : (setEnv v s).planeK = s.planeK := rfl
@[simp] theorem setEnv_planeR (v : Env) (s : State) : (setEnv v s).planeR = s.planeR := rfl
@[simp] theorem setEnv_pending (v : Env) (s : State) : (setEnv v s).pending = s.pending := rfl
@[simp] theorem setEnv_inbox (v : Env) (s : State) : (setEnv v s).inbox = s.inbox := rfl
@[simp] theorem setEnv_env (v : Env) (s : State) : (setEnv v s).env = v := rfl
@[simp] theorem setEnv_hist (v : Env) (s : State) : (setEnv v s).hist = s.hist := rfl
@[simp] theorem setEnv_chan (v : Env) (s : State) : (setEnv v s).chan = s.chan := rfl
@[simp] theorem setEnv_returns (v : Env) (s : State) : (setEnv v s).returns = s.returns := rfl
@[simp] theorem setEnv_refused (v : Env) (s : State) : (setEnv v s).refused = s.refused := rfl
@[simp] theorem setEnv_fresh (v : Env) (s : State) : (setEnv v s).fresh = s.fresh := rfl

/-! ## `setBusy` -/

@[simp] theorem setBusy_enc (l : List BusyAnswer) (s : State) : (setBusy l s).enc = s.enc := rfl
@[simp] theorem setBusy_seq (l : List BusyAnswer) (s : State) : (setBusy l s).seq = s.seq := rfl
@[simp] theorem setBusy_rasterK (l : List BusyAnswer) (s : State) : (setBusy l s).rasterK = s.rasterK := rfl
@[simp] theorem setBusy_rasterR (l : List BusyAnswer) (s : State) : (setBusy l s).rasterR = s.rasterR := rfl
@[simp] theorem setBusy_planeK (l : List BusyAnswer) (s : State) : (setBusy l s).planeK = s.planeK := rfl
@[simp] theorem setBusy_planeR (l : List BusyAnswer) (s : State) : (setBusy l s).planeR = s.planeR := rfl
@[simp] theorem setBusy_pending (l : List BusyAnswer) (s : State) : (setBusy l s).pending = s.pending := rfl
@[simp] theorem setBusy_inbox (l : List BusyAnswer) (s : State) : (setBusy l s).inbox = s.inbox := rfl
@[simp] theorem setBusy_env (l : List BusyAnswer) (s : State) : (setBusy l s).env = { s.env with busySamples := l } := rfl
@[simp] theorem setBusy_hist (l : List BusyAnswer) (s : State) : (setBusy l s).hist = s.hist := rfl
@[simp] theorem setBusy_chan (l : List BusyAnswer) (s : State) : (setBusy l s).chan = s.chan := rfl
@[simp] theorem setBusy_returns (l : List BusyAnswer) (s : State) : (setBusy l s).returns = s.returns := rfl
@[simp] theorem setBusy_refused (l : List BusyAnswer) (s : State) : (setBusy l s).refused = s.refused := rfl
@[simp] theorem setBusy_fresh (l : List BusyAnswer) (s : State) : (setBusy l s).fresh = s.fresh := rfl

/-! ## `emit` -/

@[simp] theorem emit_enc (e : Event) (s : State) : (emit e s).enc = s.enc := rfl
@[simp] theorem emit_seq (e : Event) (s : State) : (emit e s).seq = s.seq := rfl
@[simp] theorem emit_rasterK (e : Event) (s : State) : (emit e s).rasterK = s.rasterK := rfl
@[simp] theorem emit_rasterR (e : Event) (s : State) : (emit e s).rasterR = s.rasterR := rfl
@[simp] theorem emit_planeK (e : Event) (s : State) : (emit e s).planeK = s.planeK := rfl
@[simp] theorem emit_planeR (e : Event) (s : State) : (emit e s).planeR = s.planeR := rfl
@[simp] theorem emit_pending (e : Event) (s : State) : (emit e s).pending = s.pending := rfl
@[simp] theorem emit_inbox (e : Event) (s : State) : (emit e s).inbox = s.inbox := rfl
@[simp] theorem emit_env (e : Event) (s : State) : (emit e s).env = s.env := rfl
@[simp] theorem emit_hist (e : Event) (s : State) : (emit e s).hist = s.hist ++ [e] := rfl
@[simp] theorem emit_chan (e : Event) (s : State) : (emit e s).chan = s.chan := rfl
@[simp] theorem emit_returns (e : Event) (s : State) : (emit e s).returns = s.returns := rfl
@[simp] theorem emit_refused (e : Event) (s : State) : (emit e s).refused = s.refused := rfl
@[simp] theorem emit_fresh (e : Event) (s : State) : (emit e s).fresh = s.fresh := rfl

/-! ## `setLife` -/

@[simp] theorem setLife_enc (l : Life) (s : State) : (setLife l s).enc = s.enc := rfl
@[simp] theorem setLife_seq_dc (l : Life) (s : State) : (setLife l s).seq.dc = s.seq.dc := rfl
@[simp] theorem setLife_seq_rst (l : Life) (s : State) : (setLife l s).seq.rst = s.seq.rst := rfl
@[simp] theorem setLife_seq_life (l : Life) (s : State) : (setLife l s).seq.life = l := rfl
@[simp] theorem setLife_seq_err (l : Life) (s : State) : (setLife l s).seq.err = s.seq.err := rfl
@[simp] theorem setLife_rasterK (l : Life) (s : State) : (setLife l s).rasterK = s.rasterK := rfl
@[simp] theorem setLife_rasterR (l : Life) (s : State) : (setLife l s).rasterR = s.rasterR := rfl
@[simp] theorem setLife_planeK (l : Life) (s : State) : (setLife l s).planeK = s.planeK := rfl
@[simp] theorem setLife_planeR (l : Life) (s : State) : (setLife l s).planeR = s.planeR := rfl
@[simp] theorem setLife_pending (l : Life) (s : State) : (setLife l s).pending = s.pending := rfl
@[simp] theorem setLife_inbox (l : Life) (s : State) : (setLife l s).inbox = s.inbox := rfl
@[simp] theorem setLife_env (l : Life) (s : State) : (setLife l s).env = s.env := rfl
@[simp] theorem setLife_hist (l : Life) (s : State) : (setLife l s).hist = s.hist := rfl
@[simp] theorem setLife_chan (l : Life) (s : State) : (setLife l s).chan = s.chan := rfl
@[simp] theorem setLife_returns (l : Life) (s : State) : (setLife l s).returns = s.returns := rfl
@[simp] theorem setLife_refused (l : Life) (s : State) : (setLife l s).refused = s.refused := rfl
@[simp] theorem setLife_fresh (l : Life) (s : State) : (setLife l s).fresh = s.fresh := rfl

/-! ## `delay` -/

@[simp] theorem delay_enc (ms : Nat) (s : State) : (delay ms s).enc = s.enc := rfl
@[simp] theorem delay_seq (ms : Nat) (s : State) : (delay ms s).seq = s.seq := rfl
@[simp] theorem delay_rasterK (ms : Nat) (s : State) : (delay ms s).rasterK = s.rasterK := rfl
@[simp] theorem delay_rasterR (ms : Nat) (s : State) : (delay ms s).rasterR = s.rasterR := rfl
@[simp] theorem delay_planeK (ms : Nat) (s : State) : (delay ms s).planeK = s.planeK := rfl
@[simp] theorem delay_planeR (ms : Nat) (s : State) : (delay ms s).planeR = s.planeR := rfl
@[simp] theorem delay_pending (ms : Nat) (s : State) : (delay ms s).pending = s.pending := rfl
@[simp] theorem delay_inbox (ms : Nat) (s : State) : (delay ms s).inbox = s.inbox := rfl
@[simp] theorem delay_env (ms : Nat) (s : State) : (delay ms s).env = s.env := rfl
@[simp] theorem delay_hist (ms : Nat) (s : State) : (delay ms s).hist = s.hist ++ [.sleep ms] := rfl
@[simp] theorem delay_chan (ms : Nat) (s : State) : (delay ms s).chan = s.chan := rfl
@[simp] theorem delay_returns (ms : Nat) (s : State) : (delay ms s).returns = s.returns := rfl
@[simp] theorem delay_refused (ms : Nat) (s : State) : (delay ms s).refused = s.refused := rfl
@[simp] theorem delay_fresh (ms : Nat) (s : State) : (delay ms s).fresh = s.fresh := rfl

/-! ## `keepWaiting` -/

@[simp] theorem keepWaiting_enc (p : Pending) (s : State) : (keepWaiting p s).enc = s.enc := rfl
@[simp] theorem keepWaiting_seq (p : Pending) (s : State) : (keepWaiting p s).seq = s.seq := rfl
@[simp] theorem keepWaiting_rasterK (p : Pending) (s : State) : (keepWaiting p s).rasterK = s.rasterK := rfl
@[simp] theorem keepWaiting_rasterR (p : Pending) (s : State) : (keepWaiting p s).rasterR = s.rasterR := rfl
@[simp] theorem keepWaiting_planeK (p : Pending) (s : State) : (keepWaiting p s).planeK = s.planeK := rfl
@[simp] theorem keepWaiting_planeR (p : Pending) (s : State) : (keepWaiting p s).planeR = s.planeR := rfl
@[simp] theorem keepWaiting_pending (p : Pending) (s : State) : (keepWaiting p s).pending = some p := rfl
@[simp] theorem keepWaiting_inbox (p : Pending) (s : State) : (keepWaiting p s).inbox = s.inbox := rfl
@[simp] theorem keepWaiting_env (p : Pending) (s : State) : (keepWaiting p s).env = s.env := rfl
@[simp] theorem keepWaiting_hist (p : Pending) (s : State) : (keepWaiting p s).hist = s.hist := rfl
@[simp] theorem keepWaiting_chan (p : Pending) (s : State) : (keepWaiting p s).chan = s.chan := rfl
@[simp] theorem keepWaiting_returns (p : Pending) (s : State) : (keepWaiting p s).returns = s.returns := rfl
@[simp] theorem keepWaiting_refused (p : Pending) (s : State) : (keepWaiting p s).refused = s.refused := rfl
@[simp] theorem keepWaiting_fresh (p : Pending) (s : State) : (keepWaiting p s).fresh = s.fresh := rfl

/-! ## `setEnc` -/

@[simp] theorem setEnc_enc (e : Enc) (s : State) : (setEnc e s).enc = e := rfl
@[simp] theorem setEnc_seq (e : Enc) (s : State) : (setEnc e s).seq = s.seq := rfl
@[simp] theorem setEnc_rasterK (e : Enc) (s : State) : (setEnc e s).rasterK = s.rasterK := rfl
@[simp] theorem setEnc_rasterR (e : Enc) (s : State) : (setEnc e s).rasterR = s.rasterR := rfl
@[simp] theorem setEnc_planeK (e : Enc) (s : State) : (setEnc e s).planeK = s.planeK := rfl
@[simp] theorem setEnc_planeR (e : Enc) (s : State) : (setEnc e s).planeR = s.planeR := rfl
@[simp] theorem setEnc_pending (e : Enc) (s : State) : (setEnc e s).pending = s.pending := rfl
@[simp] theorem setEnc_inbox (e : Enc) (s : State) : (setEnc e s).inbox = s.inbox := rfl
@[simp] theorem setEnc_env (e : Enc) (s : State) : (setEnc e s).env = s.env := rfl
@[simp] theorem setEnc_hist (e : Enc) (s : State) : (setEnc e s).hist = s.hist := rfl
@[simp] theorem setEnc_chan (e : Enc) (s : State) : (setEnc e s).chan = s.chan := rfl
@[simp] theorem setEnc_returns (e : Enc) (s : State) : (setEnc e s).returns = s.returns := rfl
@[simp] theorem setEnc_refused (e : Enc) (s : State) : (setEnc e s).refused = s.refused := rfl
@[simp] theorem setEnc_fresh (e : Enc) (s : State) : (setEnc e s).fresh = s.fresh := rfl

/-! ## `putOut` -/

@[simp] theorem putOut_enc (o : EncOut) (s : State) : (putOut o s).enc = s.enc := rfl
@[simp] theorem putOut_seq (o : EncOut) (s : State) : (putOut o s).seq = s.seq := rfl
@[simp] theorem putOut_rasterK (o : EncOut) (s : State) : (putOut o s).rasterK = s.rasterK := rfl
@[simp] theorem putOut_rasterR (o : EncOut) (s : State) : (putOut o s).rasterR = s.rasterR := rfl
@[simp] theorem putOut_planeK (o : EncOut) (s : State) : (putOut o s).planeK = s.planeK := rfl
@[simp] theorem putOut_planeR (o : EncOut) (s : State) : (putOut o s).planeR = s.planeR := rfl
@[simp] theorem putOut_pending (o : EncOut) (s : State) : (putOut o s).pending = s.pending := rfl
@[simp] theorem putOut_inbox (o : EncOut) (s : State) : (putOut o s).inbox = s.inbox := rfl
@[simp] theorem putOut_env (o : EncOut) (s : State) : (putOut o s).env = s.env := rfl
@[simp] theorem putOut_hist (o : EncOut) (s : State) : (putOut o s).hist = s.hist := rfl
@[simp] theorem putOut_chan (o : EncOut) (s : State) : (putOut o s).chan = s.chan ++ [o] := rfl
@[simp] theorem putOut_returns (o : EncOut) (s : State) : (putOut o s).returns = s.returns := rfl
@[simp] theorem putOut_refused (o : EncOut) (s : State) : (putOut o s).refused = s.refused := rfl
@[simp] theorem putOut_fresh (o : EncOut) (s : State) : (putOut o s).fresh = s.fresh := rfl

/-! ## `nextFresh` -/

@[simp] theorem nextFresh_enc (s : State) : (nextFresh s).enc = s.enc := rfl
@[simp] theorem nextFresh_seq (s : State) : (nextFresh s).seq = s.seq := rfl
@[simp] theorem nextFresh_rasterK (s : State) : (nextFresh s).rasterK = s.rasterK := rfl
@[simp] theorem nextFresh_rasterR (s : State) : (nextFresh s).rasterR = s.rasterR := rfl
@[simp] theorem nextFresh_planeK (s : State) : (nextFresh s).planeK = s.planeK := rfl
@[simp] theorem nextFresh_planeR (s : State) : (nextFresh s).planeR = s.planeR := rfl
@[simp] theorem nextFresh_pending (s : State) : (nextFresh s).pending = s.pending := rfl
@[simp] theorem nextFresh_inbox (s : State) : (nextFresh s).inbox = s.inbox := rfl
@[simp] theorem nextFresh_env (s : State) : (nextFresh s).env = s.env := rfl
@[simp] theorem nextFresh_hist (s : State) : (nextFresh s).hist = s.hist := rfl
@[simp] theorem nextFresh_chan (s : State) : (nextFresh s).chan = s.chan := rfl
@[simp] theorem nextFresh_returns (s : State) : (nextFresh s).returns = s.returns := rfl
@[simp] theorem nextFresh_refused (s : State) : (nextFresh s).refused = s.refused := rfl
@[simp] theorem nextFresh_fresh (s : State) : (nextFresh s).fresh = s.fresh + 3 := rfl

/-! ## `setInbox` -/

@[simp] theorem setInbox_enc (l : List HostMove) (s : State) : (setInbox l s).enc = s.enc := rfl
@[simp] theorem setInbox_seq (l : List HostMove) (s : State) : (setInbox l s).seq = s.seq := rfl
@[simp] theorem setInbox_rasterK (l : List HostMove) (s : State) : (setInbox l s).rasterK = s.rasterK := rfl
@[simp] theorem setInbox_rasterR (l : List HostMove) (s : State) : (setInbox l s).rasterR = s.rasterR := rfl
@[simp] theorem setInbox_planeK (l : List HostMove) (s : State) : (setInbox l s).planeK = s.planeK := rfl
@[simp] theorem setInbox_planeR (l : List HostMove) (s : State) : (setInbox l s).planeR = s.planeR := rfl
@[simp] theorem setInbox_pending (l : List HostMove) (s : State) : (setInbox l s).pending = s.pending := rfl
@[simp] theorem setInbox_inbox (l : List HostMove) (s : State) : (setInbox l s).inbox = l := rfl
@[simp] theorem setInbox_env (l : List HostMove) (s : State) : (setInbox l s).env = s.env := rfl
@[simp] theorem setInbox_hist (l : List HostMove) (s : State) : (setInbox l s).hist = s.hist := rfl
@[simp] theorem setInbox_chan (l : List HostMove) (s : State) : (setInbox l s).chan = s.chan := rfl
@[simp] theorem setInbox_returns (l : List HostMove) (s : State) : (setInbox l s).returns = s.returns := rfl
@[simp] theorem setInbox_refused (l : List HostMove) (s : State) : (setInbox l s).refused = s.refused := rfl
@[simp] theorem setInbox_fresh (l : List HostMove) (s : State) : (setInbox l s).fresh = s.fresh := rfl

/-! ## `placeCall` -/

@[simp] theorem placeCall_enc (c : Call) (s : State) : (placeCall c s).enc = s.enc := rfl
@[simp] theorem placeCall_seq (c : Call) (s : State) : (placeCall c s).seq = s.seq := rfl
@[simp] theorem placeCall_rasterK (c : Call) (s : State) : (placeCall c s).rasterK = s.rasterK := rfl
@[simp] theorem placeCall_rasterR (c : Call) (s : State) : (placeCall c s).rasterR = s.rasterR := rfl
@[simp] theorem placeCall_planeK (c : Call) (s : State) : (placeCall c s).planeK = s.planeK := rfl
@[simp] theorem placeCall_planeR (c : Call) (s : State) : (placeCall c s).planeR = s.planeR := rfl
@[simp] theorem placeCall_pending (c : Call) (s : State) : (placeCall c s).pending = none := rfl
@[simp] theorem placeCall_inbox (c : Call) (s : State) : (placeCall c s).inbox = .call c :: s.inbox := rfl
@[simp] theorem placeCall_env (c : Call) (s : State) : (placeCall c s).env = s.env := rfl
@[simp] theorem placeCall_hist (c : Call) (s : State) : (placeCall c s).hist = s.hist := rfl
@[simp] theorem placeCall_chan (c : Call) (s : State) : (placeCall c s).chan = s.chan := rfl
@[simp] theorem placeCall_returns (c : Call) (s : State) : (placeCall c s).returns = s.returns := rfl
@[simp] theorem placeCall_refused (c : Call) (s : State) : (placeCall c s).refused = s.refused := rfl
@[simp] theorem placeCall_fresh (c : Call) (s : State) : (placeCall c s).fresh = s.fresh := rfl

/-! ## `spiWrite` -/

@[simp] theorem spiWrite_enc (bs : List Byte) (s : State) : (spiWrite bs s).enc = s.enc := rfl
@[simp] theorem spiWrite_seq (bs : List Byte) (s : State) : (spiWrite bs s).seq = s.seq := rfl
@[simp] theorem spiWrite_rasterK (bs : List Byte) (s : State) : (spiWrite bs s).rasterK = s.rasterK := rfl
@[simp] theorem spiWrite_rasterR (bs : List Byte) (s : State) : (spiWrite bs s).rasterR = s.rasterR := rfl
@[simp] theorem spiWrite_planeK (bs : List Byte) (s : State) : (spiWrite bs s).planeK = s.planeK := rfl
@[simp] theorem spiWrite_planeR (bs : List Byte) (s : State) : (spiWrite bs s).planeR = s.planeR := rfl
@[simp] theorem spiWrite_pending (bs : List Byte) (s : State) : (spiWrite bs s).pending = s.pending := rfl
@[simp] theorem spiWrite_inbox (bs : List Byte) (s : State) : (spiWrite bs s).inbox = s.inbox := rfl
@[simp] theorem spiWrite_env (bs : List Byte) (s : State) : (spiWrite bs s).env = s.env.afterSpi := rfl
@[simp] theorem spiWrite_hist (bs : List Byte) (s : State) : (spiWrite bs s).hist = s.hist ++ [.spi bs (s.env.spiAnswer bs.length)] := rfl
@[simp] theorem spiWrite_chan (bs : List Byte) (s : State) : (spiWrite bs s).chan = s.chan := rfl
@[simp] theorem spiWrite_returns (bs : List Byte) (s : State) : (spiWrite bs s).returns = s.returns := rfl
@[simp] theorem spiWrite_refused (bs : List Byte) (s : State) : (spiWrite bs s).refused = s.refused := rfl
@[simp] theorem spiWrite_fresh (bs : List Byte) (s : State) : (spiWrite bs s).fresh = s.fresh := rfl

/-! ## `abortTo` -/

@[simp] theorem abortTo_enc (l : Life) (e : Error) (s : State) : (abortTo l e s).enc = s.enc := rfl
@[simp] theorem abortTo_seq_dc (l : Life) (e : Error) (s : State) : (abortTo l e s).seq.dc = s.seq.dc := rfl
@[simp] theorem abortTo_seq_rst (l : Life) (e : Error) (s : State) : (abortTo l e s).seq.rst = s.seq.rst := rfl
@[simp] theorem abortTo_seq_life (l : Life) (e : Error) (s : State) : (abortTo l e s).seq.life = l := rfl
@[simp] theorem abortTo_seq_err (l : Life) (e : Error) (s : State) : (abortTo l e s).seq.err = stickyErr s.seq.err e := rfl
@[simp] theorem abortTo_rasterK (l : Life) (e : Error) (s : State) : (abortTo l e s).rasterK = s.rasterK := rfl
@[simp] theorem abortTo_rasterR (l : Life) (e : Error) (s : State) : (abortTo l e s).rasterR = s.rasterR := rfl
@[simp] theorem abortTo_planeK (l : Life) (e : Error) (s : State) : (abortTo l e s).planeK = s.planeK := rfl
@[simp] theorem abortTo_planeR (l : Life) (e : Error) (s : State) : (abortTo l e s).planeR = s.planeR := rfl
@[simp] theorem abortTo_pending (l : Life) (e : Error) (s : State) : (abortTo l e s).pending = none := rfl
@[simp] theorem abortTo_inbox (l : Life) (e : Error) (s : State) : (abortTo l e s).inbox = s.inbox := rfl
@[simp] theorem abortTo_env (l : Life) (e : Error) (s : State) : (abortTo l e s).env = s.env := rfl
@[simp] theorem abortTo_hist (l : Life) (e : Error) (s : State) : (abortTo l e s).hist = s.hist := rfl
@[simp] theorem abortTo_chan (l : Life) (e : Error) (s : State) : (abortTo l e s).chan = s.chan := rfl
@[simp] theorem abortTo_returns (l : Life) (e : Error) (s : State) : (abortTo l e s).returns = s.returns ++ [.error e] := rfl
@[simp] theorem abortTo_refused (l : Life) (e : Error) (s : State) : (abortTo l e s).refused = s.refused := rfl
@[simp] theorem abortTo_fresh (l : Life) (e : Error) (s : State) : (abortTo l e s).fresh = s.fresh := rfl

/-! ## `abort` -/

@[simp] theorem abort_enc (n : Nat) (e : Error) (s : State) : (abort n e s).enc = s.enc := rfl
@[simp] theorem abort_seq_dc (n : Nat) (e : Error) (s : State) : (abort n e s).seq.dc = s.seq.dc := rfl
@[simp] theorem abort_seq_rst (n : Nat) (e : Error) (s : State) : (abort n e s).seq.rst = s.seq.rst := rfl
@[simp] theorem abort_seq_life (n : Nat) (e : Error) (s : State) : (abort n e s).seq.life = lifeAfterError n s := rfl
@[simp] theorem abort_seq_err (n : Nat) (e : Error) (s : State) : (abort n e s).seq.err = stickyErr s.seq.err e := rfl
@[simp] theorem abort_rasterK (n : Nat) (e : Error) (s : State) : (abort n e s).rasterK = s.rasterK := rfl
@[simp] theorem abort_rasterR (n : Nat) (e : Error) (s : State) : (abort n e s).rasterR = s.rasterR := rfl
@[simp] theorem abort_planeK (n : Nat) (e : Error) (s : State) : (abort n e s).planeK = s.planeK := rfl
@[simp] theorem abort_planeR (n : Nat) (e : Error) (s : State) : (abort n e s).planeR = s.planeR := rfl
@[simp] theorem abort_pending (n : Nat) (e : Error) (s : State) : (abort n e s).pending = none := rfl
@[simp] theorem abort_inbox (n : Nat) (e : Error) (s : State) : (abort n e s).inbox = s.inbox := rfl
@[simp] theorem abort_env (n : Nat) (e : Error) (s : State) : (abort n e s).env = s.env := rfl
@[simp] theorem abort_hist (n : Nat) (e : Error) (s : State) : (abort n e s).hist = s.hist := rfl
@[simp] theorem abort_chan (n : Nat) (e : Error) (s : State) : (abort n e s).chan = s.chan := rfl
@[simp] theorem abort_returns (n : Nat) (e : Error) (s : State) : (abort n e s).returns = s.returns ++ [.error e] := rfl
@[simp] theorem abort_refused (n : Nat) (e : Error) (s : State) : (abort n e s).refused = s.refused := rfl
@[simp] theorem abort_fresh (n : Nat) (e : Error) (s : State) : (abort n e s).fresh = s.fresh := rfl

/-! ## `setLine` -/

@[simp] theorem setLine_enc (l : OutLine) (lv : Level) (s : State) : (setLine l lv s).enc = s.enc := by cases l <;> rfl
@[simp] theorem setLine_rasterK (l : OutLine) (lv : Level) (s : State) : (setLine l lv s).rasterK = s.rasterK := by cases l <;> rfl
@[simp] theorem setLine_rasterR (l : OutLine) (lv : Level) (s : State) : (setLine l lv s).rasterR = s.rasterR := by cases l <;> rfl
@[simp] theorem setLine_planeK (l : OutLine) (lv : Level) (s : State) : (setLine l lv s).planeK = s.planeK := by cases l <;> rfl
@[simp] theorem setLine_planeR (l : OutLine) (lv : Level) (s : State) : (setLine l lv s).planeR = s.planeR := by cases l <;> rfl
@[simp] theorem setLine_pending (l : OutLine) (lv : Level) (s : State) : (setLine l lv s).pending = s.pending := by cases l <;> rfl
@[simp] theorem setLine_inbox (l : OutLine) (lv : Level) (s : State) : (setLine l lv s).inbox = s.inbox := by cases l <;> rfl
@[simp] theorem setLine_env (l : OutLine) (lv : Level) (s : State) : (setLine l lv s).env = s.env := by cases l <;> rfl
@[simp] theorem setLine_hist (l : OutLine) (lv : Level) (s : State) : (setLine l lv s).hist = s.hist := by cases l <;> rfl
@[simp] theorem setLine_chan (l : OutLine) (lv : Level) (s : State) : (setLine l lv s).chan = s.chan := by cases l <;> rfl
@[simp] theorem setLine_returns (l : OutLine) (lv : Level) (s : State) : (setLine l lv s).returns = s.returns := by cases l <;> rfl
@[simp] theorem setLine_refused (l : OutLine) (lv : Level) (s : State) : (setLine l lv s).refused = s.refused := by cases l <;> rfl
@[simp] theorem setLine_fresh (l : OutLine) (lv : Level) (s : State) : (setLine l lv s).fresh = s.fresh := by cases l <;> rfl
@[simp] theorem setLine_seq_life (l : OutLine) (lv : Level) (s : State) : (setLine l lv s).seq.life = s.seq.life := by cases l <;> rfl
@[simp] theorem setLine_seq_err (l : OutLine) (lv : Level) (s : State) : (setLine l lv s).seq.err = s.seq.err := by cases l <;> rfl
@[simp] theorem setLine_dc_seq (lv : Level) (s : State) : (setLine .dc lv s).seq = { s.seq with dc := .ofLevel lv } := rfl
@[simp] theorem setLine_rst_seq (lv : Level) (s : State) : (setLine .rst lv s).seq = { s.seq with rst := .ofLevel lv } := rfl

/-! ## `setMem`, `memOf`, `discardPlane` -/

@[simp] theorem setMem_enc (sp : Space) (m : Memory) (s : State) : (setMem sp m s).enc = s.enc := by cases sp <;> rfl
@[simp] theorem discardPlane_enc (col : Colour) (s : State) : (discardPlane col s).enc = s.enc := by cases col <;> rfl
@[simp] theorem discardPlanes_enc (s : State) : (discardPlanes s).enc = s.enc := rfl
@[simp] theorem discardFor_enc (op : Waiting) (s : State) : (discardFor op s).enc = s.enc := by cases op <;> rfl
@[simp] theorem setMem_seq (sp : Space) (m : Memory) (s : State) : (setMem sp m s).seq = s.seq := by cases sp <;> rfl
@[simp] theorem discardPlane_seq (col : Colour) (s : State) : (discardPlane col s).seq = s.seq := by cases col <;> rfl
@[simp] theorem discardPlanes_seq (s : State) : (discardPlanes s).seq = s.seq := rfl
@[simp] theorem discardFor_seq (op : Waiting) (s : State) : (discardFor op s).seq = s.seq := by cases op <;> rfl
@[simp] theorem setMem_pending (sp : Space) (m : Memory) (s : State) : (setMem sp m s).pending = s.pending := by cases sp <;> rfl
@[simp] theorem discardPlane_pending (col : Colour) (s : State) : (discardPlane col s).pending = s.pending := by cases col <;> rfl
@[simp] theorem discardPlanes_pending (s : State) : (discardPlanes s).pending = s.pending := rfl
@[simp] theorem discardFor_pending (op : Waiting) (s : State) : (discardFor op s).pending = s.pending := by cases op <;> rfl
@[simp] theorem setMem_inbox (sp : Space) (m : Memory) (s : State) : (setMem sp m s).inbox = s.inbox := by cases sp <;> rfl
@[simp] theorem discardPlane_inbox (col : Colour) (s : State) : (discardPlane col s).inbox = s.inbox := by cases col <;> rfl
@[simp] theorem discardPlanes_inbox (s : State) : (discardPlanes s).inbox = s.inbox := rfl
@[simp] theorem discardFor_inbox (op : Waiting) (s : State) : (discardFor op s).inbox = s.inbox := by cases op <;> rfl
@[simp] theorem setMem_env (sp : Space) (m : Memory) (s : State) : (setMem sp m s).env = s.env := by cases sp <;> rfl
@[simp] theorem discardPlane_env (col : Colour) (s : State) : (discardPlane col s).env = s.env := by cases col <;> rfl
@[simp] theorem discardPlanes_env (s : State) : (discardPlanes s).env = s.env := rfl
@[simp] theorem discardFor_env (op : Waiting) (s : State) : (discardFor op s).env = s.env := by cases op <;> rfl
@[simp] theorem setMem_hist (sp : Space) (m : Memory) (s : State) : (setMem sp m s).hist = s.hist := by cases sp <;> rfl
@[simp] theorem discardPlane_hist (col : Colour) (s : State) : (discardPlane col s).hist = s.hist := by cases col <;> rfl
@[simp] theorem discardPlanes_hist (s : State) : (discardPlanes s).hist = s.hist := rfl
@[simp] theorem discardFor_hist (op : Waiting) (s : State) : (discardFor op s).hist = s.hist := by cases op <;> rfl
@[simp] theorem setMem_chan (sp : Space) (m : Memory) (s : State) : (setMem sp m s).chan = s.chan := by cases sp <;> rfl
@[simp] theorem discardPlane_chan (col : Colour) (s : State) : (discardPlane col s).chan = s.chan := by cases col <;> rfl
@[simp] theorem discardPlanes_chan (s : State) : (discardPlanes s).chan = s.chan := rfl
@[simp] theorem discardFor_chan (op : Waiting) (s : State) : (discardFor op s).chan = s.chan := by cases op <;> rfl
@[simp] theorem setMem_returns (sp : Space) (m : Memory) (s : State) : (setMem sp m s).returns = s.returns := by cases sp <;> rfl
@[simp] theorem discardPlane_returns (col : Colour) (s : State) : (discardPlane col s).returns = s.returns := by cases col <;> rfl
@[simp] theorem discardPlanes_returns (s : State) : (discardPlanes s).returns = s.returns := rfl
@[simp] theorem discardFor_returns (op : Waiting) (s : State) : (discardFor op s).returns = s.returns := by cases op <;> rfl
@[simp] theorem setMem_refused (sp : Space) (m : Memory) (s : State) : (setMem sp m s).refused = s.refused := by cases sp <;> rfl
@[simp] theorem discardPlane_refused (col : Colour) (s : State) : (discardPlane col s).refused = s.refused := by cases col <;> rfl
@[simp] theorem discardPlanes_refused (s : State) : (discardPlanes s).refused = s.refused := rfl
@[simp] theorem discardFor_refused (op : Waiting) (s : State) : (discardFor op s).refused = s.refused := by cases op <;> rfl
@[simp] theorem setMem_fresh (sp : Space) (m : Memory) (s : State) : (setMem sp m s).fresh = s.fresh := by cases sp <;> rfl
@[simp] theorem discardPlane_fresh (col : Colour) (s : State) : (discardPlane col s).fresh = s.fresh := by cases col <;> rfl
@[simp] theorem discardPlanes_fresh (s : State) : (discardPlanes s).fresh = s.fresh := rfl
@[simp] theorem discardFor_fresh (op : Waiting) (s : State) : (discardFor op s).fresh = s.fresh := by cases op <;> rfl
@[simp] theorem setMem_plane_rasterK (col : Colour) (m : Memory) (s : State) : (setMem col.planeSpace m s).rasterK = s.rasterK := by cases col <;> rfl
@[simp] theorem discardPlane_rasterK (col : Colour) (s : State) : (discardPlane col s).rasterK = s.rasterK := by cases col <;> rfl
@[simp] theorem discardPlanes_rasterK (s : State) : (discardPlanes s).rasterK = s.rasterK := rfl
@[simp] theorem discardFor_rasterK (op : Waiting) (s : State) : (discardFor op s).rasterK = s.rasterK := by cases op <;> rfl
@[simp] theorem setMem_plane_rasterR (col : Colour) (m : Memory) (s : State) : (setMem col.planeSpace m s).rasterR = s.rasterR := by cases col <;> rfl
@[simp] theorem discardPlane_rasterR (col : Colour) (s : State) : (discardPlane col s).rasterR = s.rasterR := by cases col <;> rfl
@[simp] theorem discardPlanes_rasterR (s : State) : (discardPlanes s).rasterR = s.rasterR := rfl
@[simp] theorem discardFor_rasterR (op : Waiting) (s : State) : (discardFor op s).rasterR = s.rasterR := by cases op <;> rfl
@[simp] theorem discardPlanes_planeK (s : State) : (discardPlanes s).planeK = [] := rfl
@[simp] theorem discardPlanes_planeR (s : State) : (discardPlanes s).planeR = [] := rfl
@[simp] theorem memOf_setMem_same (sp : Space) (m : Memory) (s : State) : memOf sp (setMem sp m s) = m := by cases sp <;> rfl
theorem memOf_setMem_other (sp sq : Space) (m : Memory) (s : State) (h : sq ≠ sp) : memOf sq (setMem sp m s) = memOf sq s := by
  cases sp <;> cases sq <;> simp_all [memOf, setMem]

/-! ## `logPartial` -/

@[simp] theorem logPartial_enc (r w : Nat) (s : State) : (logPartial r w s).enc = s.enc := by unfold logPartial; split <;> rfl
@[simp] theorem logPartial_seq (r w : Nat) (s : State) : (logPartial r w s).seq = s.seq := by unfold logPartial; split <;> rfl
@[simp] theorem logPartial_rasterK (r w : Nat) (s : State) : (logPartial r w s).rasterK = s.rasterK := by unfold logPartial; split <;> rfl
@[simp] theorem logPartial_rasterR (r w : Nat) (s : State) : (logPartial r w s).rasterR = s.rasterR := by unfold logPartial; split <;> rfl
@[simp] theorem logPartial_planeK (r w : Nat) (s : State) : (logPartial r w s).planeK = s.planeK := by unfold logPartial; split <;> rfl
@[simp] theorem logPartial_planeR (r w : Nat) (s : State) : (logPartial r w s).planeR = s.planeR := by unfold logPartial; split <;> rfl
@[simp] theorem logPartial_pending (r w : Nat) (s : State) : (logPartial r w s).pending = s.pending := by unfold logPartial; split <;> rfl
@[simp] theorem logPartial_inbox (r w : Nat) (s : State) : (logPartial r w s).inbox = s.inbox := by unfold logPartial; split <;> rfl
@[simp] theorem logPartial_env (r w : Nat) (s : State) : (logPartial r w s).env = s.env := by unfold logPartial; split <;> rfl
@[simp] theorem logPartial_chan (r w : Nat) (s : State) : (logPartial r w s).chan = s.chan := by unfold logPartial; split <;> rfl
@[simp] theorem logPartial_returns (r w : Nat) (s : State) : (logPartial r w s).returns = s.returns := by unfold logPartial; split <;> rfl
@[simp] theorem logPartial_refused (r w : Nat) (s : State) : (logPartial r w s).refused = s.refused := by unfold logPartial; split <;> rfl
@[simp] theorem logPartial_fresh (r w : Nat) (s : State) : (logPartial r w s).fresh = s.fresh := by unfold logPartial; split <;> rfl

end Sys2Proof.Machine
end

