-- ==== Sys2Proof/Laws/Memory.lean ====
section
/-! SUPPORT. The laws of the address spaces: read after write, and the canonical form. -/
namespace Sys2Proof.Machine

@[simp] theorem Memory.find_write_same (m : Memory) (a : Nat) (b : Byte) : Memory.find (Memory.write m a b) a = some b := by
  induction m with
  | nil => simp [Memory.write, Memory.find]
  | cons x m ih =>
    obtain ⟨a', b'⟩ := x
    simp only [Memory.write]
    split
    · simp [Memory.find]
    · split
      · simp [Memory.find]
      · simp [Memory.find, *]

theorem Memory.find_write_other (m : Memory) (a x : Nat) (b : Byte) (h : x ≠ a) :
    Memory.find (Memory.write m a b) x = Memory.find m x := by
  induction m with
  | nil => simp [Memory.write, Memory.find, h]
  | cons y m ih =>
    obtain ⟨a', b'⟩ := y
    simp only [Memory.write]
    split
    · simp [Memory.find, h]
    · split
      · subst_vars; simp [Memory.find, h]
      · simp [Memory.find, ih]

/-- The canonical form of a non-empty memory. -/
theorem Memory.wf_cons (a : Nat) (b : Byte) (m : Memory) :
    Memory.wf ((a, b) :: m) = true ↔ (∀ x ∈ m.head?, a < x.1) ∧ Memory.wf m = true := by
  cases m with
  | nil => simp [Memory.wf]
  | cons y m => obtain ⟨a', b'⟩ := y; simp [Memory.wf]

theorem Memory.head_write (m : Memory) (a : Nat) (b : Byte) (x : Host.Cell) (h : x ∈ (Memory.write m a b).head?) :
    x.1 = a ∨ x ∈ m.head? := by
  cases m with
  | nil => simp [Memory.write] at h; exact .inl (by simp [← h])
  | cons y m =>
    obtain ⟨a', b'⟩ := y
    simp only [Memory.write] at h
    split at h
    · simp at h; exact .inl (by simp [← h])
    · split at h
      · simp at h; exact .inl (by simp [← h])
      · simp at h; exact .inr (by simp [h])

/-- Every write keeps the canonical form. -/
theorem Memory.wf_write (m : Memory) (a : Nat) (b : Byte) (h : Memory.wf m = true) : Memory.wf (Memory.write m a b) = true := by
  induction m with
  | nil => simp [Memory.write, Memory.wf]
  | cons y m ih =>
    obtain ⟨a', b'⟩ := y
    have hw := (Memory.wf_cons a' b' m).1 h
    simp only [Memory.write]
    split
    · exact (Memory.wf_cons _ _ _).2 ⟨by simpa, h⟩
    · split
      · next h1 h2 => subst h2; exact (Memory.wf_cons _ _ _).2 hw
      · next h1 h2 =>
        refine (Memory.wf_cons _ _ _).2 ⟨fun x hx => ?_, ih hw.2⟩
        obtain hx | hx := Memory.head_write m a b x hx
        · omega
        · exact hw.1 x hx

theorem Memory.wf_writeAll (bs : List Byte) (m : Memory) (a : Nat) (h : Memory.wf m = true) :
    Memory.wf (Memory.writeAll m a bs) = true := by
  induction bs generalizing m a with
  | nil => exact h
  | cons b bs ih => exact ih _ _ (Memory.wf_write m a b h)

/-- What an address holds after bytes were written at `a` and the addresses after it. -/
theorem Memory.find_writeAll (bs : List Byte) (m : Memory) (a x : Nat) :
    Memory.find (Memory.writeAll m a bs) x = if a ≤ x ∧ x < a + bs.length then bs[x - a]? else Memory.find m x := by
  induction bs generalizing m a with
  | nil => simp only [Memory.writeAll, List.length_nil]; rw [if_neg (by omega)]
  | cons b bs ih =>
    rw [Memory.writeAll, ih]
    simp only [List.length_cons]
    by_cases hx : x = a
    · subst hx
      rw [if_neg (by omega), if_pos (by omega)]
      simp
    · by_cases hi : a + 1 ≤ x ∧ x < a + 1 + bs.length
      · rw [if_pos hi, if_pos (by omega)]
        obtain ⟨n, hn⟩ : ∃ n, x - a = n + 1 := ⟨x - a - 1, by omega⟩
        rw [hn, List.getElem?_cons_succ]
        congr 1; omega
      · rw [if_neg hi, if_neg (by omega), Memory.find_write_other _ _ _ _ hx]

@[simp] theorem readByte_setMem_writeAll (sp : Space) (m : Memory) (bs : List Byte) (s : State) (x : Nat) (h : x < bs.length) :
    readByte sp (setMem sp (Memory.writeAll m 0 bs) s) x = bs[x] := by
  simp [readByte, Memory.find_writeAll, h]

/-- A read depends on the memory of its space only. -/
theorem readByte_congr (sp : Space) (s t : State) (a : Nat) (h : memOf sp s = memOf sp t) : readByte sp s a = readByte sp t a := by
  simp [readByte, h]

end Sys2Proof.Machine
end

