-- ==== Sys2Proof/Laws/Encoder.lean ====
section
/-! SUPPORT. The laws of ENC: the shape of a plane, its bytes, the serial form of PACK8 (R89), and what one whole encode
leaves. -/
namespace Sys2Proof.Machine

/-! ## The constants of the block -/

theorem hw_width : Config.hw.width = 400 := rfl
theorem hw_height : Config.hw.height = 300 := rfl
theorem hw_group : Config.hw.group = 8 := rfl
theorem hw_bytesPerRow : Config.hw.bytesPerRow = 50 := rfl
theorem hw_threshold : Config.hw.threshold = 128 := rfl

/-! ## Shape -/

@[simp] theorem encodeRow_length (c : Config) (R : Nat → Nat → Byte) (y : Nat) : (encodeRow c R y).length = c.bytesPerRow := by
  simp [encodeRow]

@[simp] theorem encodeRaster_length (c : Config) (R : Nat → Nat → Byte) : (encodeRaster c R).length = c.height := by
  simp [encodeRaster]

@[simp] theorem whitePlane_length (c : Config) : (whitePlane c).length = c.height := by simp [whitePlane]

@[simp] theorem stripePlane_length (c : Config) (n : Nat) : (stripePlane c n).length = c.height := by simp [stripePlane]

theorem whitePlane_row_length (c : Config) (row : List Byte) (h : row ∈ whitePlane c) : row.length = c.bytesPerRow := by
  rw [List.eq_of_mem_replicate h]; simp

theorem stripePlane_row_length (c : Config) (n : Nat) (row : List Byte) (h : row ∈ stripePlane c n) : row.length = c.bytesPerRow := by
  simp only [stripePlane, List.mem_map] at h
  obtain ⟨y, -, rfl⟩ := h
  simp

theorem encodeRaster_row_length (c : Config) (R : Nat → Nat → Byte) (row : List Byte) (h : row ∈ encodeRaster c R) : row.length = c.bytesPerRow := by
  simp only [encodeRaster, List.mem_map] at h
  obtain ⟨y, -, rfl⟩ := h
  simp

/-- Rows of equal length, laid one after the other: the byte at `y * n + k` is byte `k` of row `y` (R42). -/
theorem flatten_getElem (rows : List (List Byte)) (n : Nat) (h : ∀ r ∈ rows, r.length = n) (y k : Nat)
    (hy : y < rows.length) (hk : k < n) : rows.flatten[y * n + k]? = rows[y][k]? := by
  induction rows generalizing y with
  | nil => simp at hy
  | cons r rows ih =>
    have hr := h r (by simp)
    rw [List.flatten_cons]
    cases y with
    | zero =>
      rw [List.getElem?_append_left (by omega)]
      simp
    | succ y =>
      rw [List.getElem?_append_right (by rw [hr, Nat.succ_mul]; omega)]
      have : (y + 1) * n + k - r.length = y * n + k := by rw [hr, Nat.succ_mul]; omega
      rw [this, ih (fun q hq => h q (by simp [hq])) y (by simpa using hy)]
      simp

theorem flatten_length (rows : List (List Byte)) (n : Nat) (h : ∀ r ∈ rows, r.length = n) : rows.flatten.length = rows.length * n := by
  induction rows with
  | nil => simp
  | cons r rows ih =>
    rw [List.flatten_cons, List.length_append, ih (fun q hq => h q (by simp [hq])), h r (by simp), List.length_cons,
      Nat.succ_mul, Nat.add_comm]

@[simp] theorem encodeRaster_flatten_length (c : Config) (R : Nat → Nat → Byte) : (encodeRaster c R).flatten.length = c.height * c.bytesPerRow := by
  rw [flatten_length _ c.bytesPerRow (encodeRaster_row_length c R), encodeRaster_length]

/-! ## Bits -/

/-- The serial form of PACK8 (R89). -/
theorem pack8_serial (c : Config) (p0 p1 p2 p3 p4 p5 p6 p7 : Byte) :
    pack8 c p0 p1 p2 p3 p4 p5 p6 p7 = [p0, p1, p2, p3, p4, p5, p6, p7].foldl (shiftIn c) 0 := by
  simp only [pack8, List.foldl, shiftIn]
  generalize bit c p0 = b0; generalize bit c p1 = b1; generalize bit c p2 = b2; generalize bit c p3 = b3
  generalize bit c p4 = b4; generalize bit c p5 = b5; generalize bit c p6 = b6; generalize bit c p7 = b7
  revert b0 b1 b2 b3 b4 b5 b6 b7
  decide

/-- The accumulator after `j` shifts fits in `j` bits, and one more shift in `j + 1` (R23). -/
theorem shiftIn_lt (c : Config) (acc px : Byte) (j : Nat) (hj : j < 8) (h : acc.toNat < 2 ^ j) :
    (shiftIn c acc px).toNat < 2 ^ (j + 1) := by
  have hb : (bit c px).toNat < 2 := (bit c px).isLt
  have h1 : (acc <<< 1).toNat = 2 * acc.toNat := by
    have : 2 ^ j ≤ 2 ^ 7 := Nat.pow_le_pow_right (by omega) (by omega)
    simp [BitVec.toNat_shiftLeft, Nat.shiftLeft_eq]; omega
  have h2 : ((bit c px).setWidth 8).toNat = (bit c px).toNat := by
    simp; omega
  rw [shiftIn, BitVec.toNat_or, h1, h2, Nat.pow_succ]
  apply Nat.lt_of_lt_of_le (m := 2 * acc.toNat + 2)
  · have h3 := Nat.two_pow_add_eq_or_of_lt (i := 1) (b := (bit c px).toNat) (by omega) acc.toNat
    rw [Nat.pow_one] at h3
    omega
  · omega

/-! ## One whole encode -/

@[simp] theorem encodeInto_seq (c : Config) (src dst : Colour) (s : State) : (encodeInto c src dst s).seq = s.seq := by cases dst <;> rfl
@[simp] theorem encodeInto_rasterK (c : Config) (src dst : Colour) (s : State) : (encodeInto c src dst s).rasterK = s.rasterK := by cases dst <;> rfl
@[simp] theorem encodeInto_rasterR (c : Config) (src dst : Colour) (s : State) : (encodeInto c src dst s).rasterR = s.rasterR := by cases dst <;> rfl
@[simp] theorem encodeInto_pending (c : Config) (src dst : Colour) (s : State) : (encodeInto c src dst s).pending = s.pending := by cases dst <;> rfl
@[simp] theorem encodeInto_inbox (c : Config) (src dst : Colour) (s : State) : (encodeInto c src dst s).inbox = s.inbox := by cases dst <;> rfl
@[simp] theorem encodeInto_env (c : Config) (src dst : Colour) (s : State) : (encodeInto c src dst s).env = s.env := by cases dst <;> rfl
@[simp] theorem encodeInto_hist (c : Config) (src dst : Colour) (s : State) : (encodeInto c src dst s).hist = s.hist := by cases dst <;> rfl
@[simp] theorem encodeInto_returns (c : Config) (src dst : Colour) (s : State) : (encodeInto c src dst s).returns = s.returns := by cases dst <;> rfl
@[simp] theorem encodeInto_refused (c : Config) (src dst : Colour) (s : State) : (encodeInto c src dst s).refused = s.refused := by cases dst <;> rfl
@[simp] theorem encodeInto_enc (c : Config) (src dst : Colour) (s : State) : (encodeInto c src dst s).enc = idleEnc c s.fresh dst := by cases dst <;> rfl
@[simp] theorem encodeInto_fresh (c : Config) (src dst : Colour) (s : State) : (encodeInto c src dst s).fresh = s.fresh + 3 := by cases dst <;> rfl
@[simp] theorem encodeInto_chan (c : Config) (src dst : Colour) (s : State) :
    (encodeInto c src dst s).chan = s.chan ++ ((encodeRaster c (sample c src s)).flatten.map .byteOut ++ [.done]) := by cases dst <;> rfl

theorem encodeInto_memOf_same (c : Config) (src dst : Colour) (s : State) :
    memOf dst.planeSpace (encodeInto c src dst s) =
      Memory.writeAll (memOf dst.planeSpace s) 0 (encodeRaster c (sample c src s)).flatten := by cases dst <;> rfl

theorem encodeInto_memOf_other (c : Config) (src dst : Colour) (s : State) (sp : Space) (h : sp ≠ dst.planeSpace) :
    memOf sp (encodeInto c src dst s) = memOf sp s := by
  cases dst <;> cases sp <;> first | rfl | exact absurd rfl h

/-- A plane byte ENC has written (R42, R91). -/
theorem encodeInto_planeByte (c : Config) (src dst : Colour) (s : State) (y k : Nat) (hy : y < c.height) (hk : k < c.bytesPerRow) :
    planeByte c dst (encodeInto c src dst s) y k = encodeGroup c (sample c src s) y k := by
  have hlt : y * c.bytesPerRow + k < c.height * c.bytesPerRow := by
    calc y * c.bytesPerRow + k < y * c.bytesPerRow + c.bytesPerRow := by omega
      _ = (y + 1) * c.bytesPerRow := by rw [Nat.succ_mul]
      _ ≤ _ := Nat.mul_le_mul_right _ hy
  have hget := flatten_getElem (encodeRaster c (sample c src s)) c.bytesPerRow (encodeRaster_row_length c _) y k (by simpa) hk
  rw [planeByte, readByte, encodeInto_memOf_same, Memory.find_writeAll, if_pos (by rw [encodeRaster_flatten_length]; omega), Nat.sub_zero, hget]
  simp [encodeRaster, encodeRow, hk]

/-- The rows SEQ reads are the rows ENC wrote (R55, R91). -/
theorem planeRows_encodeInto (c : Config) (src dst : Colour) (s : State) :
    planeRows c dst (encodeInto c src dst s) = encodeRaster c (sample c src s) := by
  unfold planeRows encodeRaster encodeRow
  refine List.map_congr_left fun y hy => List.map_congr_left fun k hk => ?_
  exact encodeInto_planeByte c src dst s y k (by simpa using hy) (by simpa using hk)

/-- ENCODE depends on the samples of the raster only (R54, R96). -/
theorem encodeRaster_congr (c : Config) (hg : c.width = 8 * c.bytesPerRow) (R Q : Nat → Nat → Byte)
    (h : ∀ y x, y < c.height → x < c.width → R y x = Q y x) : encodeRaster c R = encodeRaster c Q := by
  unfold encodeRaster encodeRow
  refine List.map_congr_left fun y hy => List.map_congr_left fun k hk => ?_
  have hy : y < c.height := by simpa using hy
  have hk : k < c.bytesPerRow := by simpa using hk
  simp only [encodeGroup]
  congr 1 <;> exact h _ _ hy (by omega)

end Sys2Proof.Machine
end

