-- ==== Sys2Proof/Laws/Stream.lean ====
section
/-! SUPPORT. What one PIXEL does inside a stream (R102 to R104): the state after each accepted sample, written out. -/
namespace Sys2Proof.Machine

/-- Rows are made of whole groups of eight pixels, and there is at least one (R8, R48). -/
structure Fits (c : Config) : Prop where
  g : c.group = 8
  w : c.width = 8 * c.bytesPerRow
  b : 0 < c.bytesPerRow
  h : 0 < c.height
/-- The block's configuration does (R6). -/
theorem hw_fits : Fits Config.hw := ⟨rfl, rfl, by decide, by decide⟩

/-- Writing two runs of bytes one after the other. -/
theorem Memory.writeAll_append (m : Memory) (a : Nat) (l l' : List Byte) :
    Memory.writeAll m a (l ++ l') = Memory.writeAll (Memory.writeAll m a l) (a + l.length) l' := by
  induction l generalizing m a with
  | nil => rfl
  | cons b l ih => simp only [List.cons_append, Memory.writeAll, ih, List.length_cons]; congr 1; omega

/-- The accumulator after `j` pixels of group `g` of row `y` (R23). -/
def accAfter (c : Config) (R : Nat → Nat → Byte) (y g j : Nat) : Byte :=
  (List.range j).foldl (fun a i => shiftIn c a (R y (8 * g + i))) 0
theorem accAfter_succ (c : Config) (R : Nat → Nat → Byte) (y g j : Nat) : accAfter c R y g (j+1) = shiftIn c (accAfter c R y g j) (R y (8*g+j)) := by
  simp [accAfter, List.range_succ]
/-- After the eighth it is the byte of the group (R89). -/
theorem accAfter_eight (c : Config) (R : Nat → Nat → Byte) (y g : Nat) : accAfter c R y g 8 = encodeGroup c R y g := by
  rw [encodeGroup, pack8_serial]; rfl

/-- The first `n` bytes of the encoding, in the order of R100. -/
def firstBytes (c : Config) (R : Nat → Nat → Byte) (n : Nat) : List Byte :=
  (List.range n).map fun m => encodeGroup c R (m / c.bytesPerRow) (m % c.bytesPerRow)
theorem firstBytes_succ (c : Config) (R : Nat → Nat → Byte) (n : Nat) : firstBytes c R (n+1) = firstBytes c R n ++ [encodeGroup c R (n / c.bytesPerRow) (n % c.bytesPerRow)] := by
  simp [firstBytes, List.range_succ]
theorem firstBytes_len (c : Config) (R : Nat → Nat → Byte) (n : Nat) : (firstBytes c R n).length = n := by simp [firstBytes]

/-- All of them are the encoding (R42). -/
theorem firstBytes_all (c : Config) (hc : Fits c) (R : Nat → Nat → Byte) : firstBytes c R (c.height * c.bytesPerRow) = (encodeRaster c R).flatten := by
  apply List.ext_getElem?
  intro i
  by_cases hi : i < c.height * c.bytesPerRow
  · have hd : i / c.bytesPerRow < c.height := (Nat.div_lt_iff_lt_mul hc.b).2 hi
    have hm := Nat.mod_lt i hc.b
    have h1 := flatten_getElem (encodeRaster c R) c.bytesPerRow (encodeRaster_row_length c R) (i / c.bytesPerRow) (i % c.bytesPerRow) (by simpa) hm
    rw [Nat.mul_comm, Nat.div_add_mod] at h1
    rw [h1]
    simp [firstBytes, hi, encodeRaster, encodeRow, hm]
  · rw [List.getElem?_eq_none, List.getElem?_eq_none]
    · rw [encodeRaster_flatten_length]; omega
    · rw [firstBytes_len]; omega

/-- The state inside a stream: `j` pixels of group `g` of row `y` accepted, every byte before emitted (R102, R103). -/
def midStream (c : Config) (R : Nat → Nat → Byte) (col : Colour) (y g j : Nat) (s : State) : State :=
  { setMem col.planeSpace (Memory.writeAll (memOf col.planeSpace s) 0 (firstBytes c R (y * c.bytesPerRow + g))) s with
    enc := ⟨y, g, j, accAfter c R y g j, true, col⟩
    chan := s.chan ++ (firstBytes c R (y * c.bytesPerRow + g)).map .byteOut }

/-- The state after the last pixel (R104). -/
def endOfStream (c : Config) (R : Nat → Nat → Byte) (col : Colour) (s : State) : State :=
  { setMem col.planeSpace (Memory.writeAll (memOf col.planeSpace s) 0 (encodeRaster c R).flatten) s with
    enc := idleEnc c s.fresh col
    fresh := s.fresh + 3
    chan := s.chan ++ (encodeRaster c R).flatten.map .byteOut ++ [.done] }

/-- A pixel that does not end its group (R102). -/
theorem encPixel_in_group (c : Config) (R : Nat → Nat → Byte) (col : Colour) (y g j : Nat) (s : State) (hc : Fits c) (hj : j < 7) :
    encPixel c (R y (8*g+j)) (midStream c R col y g j s) = midStream c R col y g (j+1) s := by
  have := hc.g
  cases col <;> simp [encPixel, midStream, hc.g, hj, accAfter_succ, setEnc]

/-- What BYTE_OUT of the accumulator does (R103). -/
theorem encEmit_midStream (c : Config) (R : Nat → Nat → Byte) (col : Colour) (y g : Nat) (s : State) (hc : Fits c) (hg : g < c.bytesPerRow) (e : Enc) (h : e = ⟨y, g, 7, accAfter c R y g 8, true, col⟩):
   encEmit c (setEnc e (midStream c R col y g 7 s)) =
   { setMem col.planeSpace (Memory.writeAll (memOf col.planeSpace s) 0 (firstBytes c R (y * c.bytesPerRow + g + 1))) s with
    enc := e
    chan := s.chan ++ (firstBytes c R (y * c.bytesPerRow + g + 1)).map .byteOut } := by
  subst h
  have hd : (y * c.bytesPerRow + g) / c.bytesPerRow = y := by
    rw [Nat.mul_comm, Nat.mul_add_div hc.b, Nat.div_eq_of_lt hg, Nat.add_zero]
  have hm : (y * c.bytesPerRow + g) % c.bytesPerRow = g := by
    rw [Nat.mul_comm, Nat.mul_add_mod, Nat.mod_eq_of_lt hg]
  cases col <;> simp [encEmit, midStream, setEnc, putOut, firstBytes_succ, hd, hm, Memory.writeAll_append, firstBytes_len, Memory.writeAll, accAfter_eight, setMem, memOf, Colour.planeSpace]

/-- The eighth pixel of a group that is not the last of its row (R103). -/
theorem encPixel_ends_group (c : Config) (R : Nat → Nat → Byte) (col : Colour) (y g : Nat) (s : State) (hc : Fits c) (hg : g + 1 < c.bytesPerRow) :
    encPixel c (R y (8*g+7)) (midStream c R col y g 7 s) = midStream c R col y (g+1) 0 s := by
  have he := encEmit_midStream c R col y g s hc (by omega) ⟨y, g, 7, accAfter c R y g 8, true, col⟩ rfl
  have h1 : encPixel c (R y (8*g+7)) (midStream c R col y g 7 s) = encAdvance c (setEnc ⟨y, g, 7, accAfter c R y g 8, true, col⟩ (midStream c R col y g 7 s)) := by
    have := accAfter_succ c R y g 7
    cases col <;> simp [encPixel, midStream, hc.g, this, setEnc]
  rw [h1, encAdvance, he]
  cases col <;> simp [setEnc, midStream, show g < c.bytesPerRow - 1 by omega, accAfter, setMem, Colour.planeSpace, memOf, Nat.add_assoc]

/-- The last pixel of a row that is not the last row (R103). -/
theorem encPixel_ends_row (c : Config) (R : Nat → Nat → Byte) (col : Colour) (y g : Nat) (s : State) (hc : Fits c) (hg : g + 1 = c.bytesPerRow) (hy : y + 1 < c.height) :
    encPixel c (R y (8*g+7)) (midStream c R col y g 7 s) = midStream c R col (y+1) 0 0 s := by
  have he := encEmit_midStream c R col y g s hc (by omega) ⟨y, g, 7, accAfter c R y g 8, true, col⟩ rfl
  have h1 : encPixel c (R y (8*g+7)) (midStream c R col y g 7 s) = encAdvance c (setEnc ⟨y, g, 7, accAfter c R y g 8, true, col⟩ (midStream c R col y g 7 s)) := by
    have := accAfter_succ c R y g 7
    cases col <;> simp [encPixel, midStream, hc.g, this, setEnc]
  have hn : y * c.bytesPerRow + g + 1 = (y+1) * c.bytesPerRow := by rw [Nat.succ_mul]; omega
  rw [h1, encAdvance, he]
  cases col <;> simp [setEnc, midStream, show ¬ g < c.bytesPerRow - 1 by omega, show y < c.height - 1 by omega, accAfter, setMem, Colour.planeSpace, memOf, hn]

/-- The last pixel of the raster (R104). -/
theorem encPixel_ends_stream (c : Config) (R : Nat → Nat → Byte) (col : Colour) (y g : Nat) (s : State) (hc : Fits c) (hg : g + 1 = c.bytesPerRow) (hy : y + 1 = c.height) :
    encPixel c (R y (8*g+7)) (midStream c R col y g 7 s) = endOfStream c R col s := by
  have he := encEmit_midStream c R col y g s hc (by omega) ⟨y, g, 7, accAfter c R y g 8, true, col⟩ rfl
  have h1 : encPixel c (R y (8*g+7)) (midStream c R col y g 7 s) = encAdvance c (setEnc ⟨y, g, 7, accAfter c R y g 8, true, col⟩ (midStream c R col y g 7 s)) := by
    have := accAfter_succ c R y g 7
    cases col <;> simp [encPixel, midStream, hc.g, this, setEnc]
  have hn : y * c.bytesPerRow + g + 1 = c.height * c.bytesPerRow := by rw [← hy, Nat.succ_mul]; omega
  rw [h1, encAdvance, he, hn, firstBytes_all c hc]
  cases col <;> simp [setEnc, endOfStream, show ¬ g < c.bytesPerRow - 1 by omega, show ¬ y < c.height - 1 by omega, encFinish, putOut, nextFresh, setMem, Colour.planeSpace, memOf]

/-- A pixel does not look at HOST's queue. -/
theorem encPixel_setInbox (c : Config) (p : Byte) (l : List HostMove) (s : State) : encPixel c p (setInbox l s) = setInbox l (encPixel c p s) := by
  obtain ⟨⟨row, grp, j, acc, active, plane⟩, _, _, _, _, _, _, _, _, _, _, _, _, _⟩ := s
  cases active with
  | false => rfl
  | true =>
    by_cases h1 : j < c.group - 1 <;> by_cases h2 : grp < c.bytesPerRow - 1 <;> by_cases h3 : row < c.height - 1 <;>
    cases plane <;> simp [encPixel, encAdvance, encEmit, encFinish, setEnc, putOut, setInbox, nextFresh, setMem, memOf, Colour.planeSpace, h1, h2, h3]

/-- A pixel puts no operation in progress. -/
theorem encPixel_pending (c : Config) (p : Byte) (s : State) : (encPixel c p s).pending = s.pending := by
  obtain ⟨⟨row, grp, j, acc, active, plane⟩, _, _, _, _, _, _, _, _, _, _, _, _, _⟩ := s
  cases active with
  | false => rfl
  | true =>
    by_cases h1 : j < c.group - 1 <;> by_cases h2 : grp < c.bytesPerRow - 1 <;> by_cases h3 : row < c.height - 1 <;>
    cases plane <;> simp [encPixel, encAdvance, encEmit, encFinish, setEnc, putOut, nextFresh, setMem, memOf, Colour.planeSpace, h1, h2, h3]

end Sys2Proof.Machine
end

