-- ==== Sys2Proof/Laws/Transmit.lean ====
section
/-! SUPPORT. What the steps of SEQ can do, said once for each shared operation: their frame (`Wire`), and their exact result
on the ideal platform. -/
namespace Sys2Proof.Machine

/-! ## Framing of the history (R56) -/

theorem dcFramed_append (l l' : List Event) (b : Bool) (h : dcFramed b l = true) (h' : ∀ b, dcFramed b l' = true) :
    dcFramed b (l ++ l') = true := by
  induction l generalizing b with
  | nil => exact h' b
  | cons e l ih => cases e <;> simp_all [dcFramed]

/-- Events that may follow anything: every SPI event among them comes directly after a DC event among them. -/
def Block (l : List Event) : Prop := ∀ b, dcFramed b l = true

theorem Block.append {l l' : List Event} (h : Block l) (h' : Block l') : Block (l ++ l') := fun b => dcFramed_append l l' b (h b) h'

theorem Block.nil : Block [] := fun _ => rfl

/-! ## The frame of the transmission steps -/

/-- What the steps of SEQ other than RESET's leave unchanged: all but `seq.dc`, the environment and the wire history, which
grows by a framed block. -/
structure Wire (s t : State) : Prop where
  enc : t.enc = s.enc
  rasterK : t.rasterK = s.rasterK
  rasterR : t.rasterR = s.rasterR
  planeK : t.planeK = s.planeK
  planeR : t.planeR = s.planeR
  pending : t.pending = s.pending
  inbox : t.inbox = s.inbox
  chan : t.chan = s.chan
  returns : t.returns = s.returns
  refused : t.refused = s.refused
  fresh : t.fresh = s.fresh
  rst : t.seq.rst = s.seq.rst
  life : t.seq.life = s.seq.life
  err : t.seq.err = s.seq.err
  hist : ∃ l, t.hist = s.hist ++ l ∧ Block l

theorem Wire.refl (s : State) : Wire s s := by
  constructor <;> first | rfl | exact ⟨[], by simp, Block.nil⟩

theorem Wire.trans {s t u : State} (h : Wire s t) (h' : Wire t u) : Wire s u := by
  obtain ⟨l, hl, bl⟩ := h.hist
  obtain ⟨l', hl', bl'⟩ := h'.hist
  exact ⟨h'.enc.trans h.enc, h'.rasterK.trans h.rasterK, h'.rasterR.trans h.rasterR, h'.planeK.trans h.planeK,
    h'.planeR.trans h.planeR, h'.pending.trans h.pending, h'.inbox.trans h.inbox, h'.chan.trans h.chan,
    h'.returns.trans h.returns, h'.refused.trans h.refused, h'.fresh.trans h.fresh, h'.rst.trans h.rst,
    h'.life.trans h.life, h'.err.trans h.err, l ++ l', by rw [hl', hl, List.append_assoc], bl.append bl'⟩

/-- The state a sequence of steps ends in. -/
def Run.final : Run → State
  | .ok s => s
  | .raised _ s => s

/-- The state polling ends in. -/
def Poll.final : Poll → State
  | .ready s => s
  | .again s => s
  | .raised _ s => s

theorem Wire.andThen {s : State} {r : Run} {f : State → Run} (h : Wire s r.final) (hf : ∀ t, Wire t (f t).final) :
    Wire s (r.andThen f).final := by
  cases r with
  | ok t => exact h.trans (hf t)
  | raised e t => exact h

theorem sendByte_wire (lv : Level) (b : Byte) (s : State) : Wire s (sendByte lv b s).final := by
  unfold sendByte lineWrite
  cases s.env.lineAnswer with
  | err e =>
    constructor <;> first
      | rfl
      | exact ⟨[.dc lv], rfl, fun b => by cases b <;> rfl⟩
  | ok =>
    simp only [Run.andThen]
    split <;> constructor <;> first
      | rfl
      | exact ⟨[.dc lv, .spi [b] _], by simp [Run.final, lineEvent]; rfl, fun b => by cases b <;> rfl⟩

theorem sendData_wire (c : Config) (bytes : List Byte) (s : State) : Wire s (sendData c bytes s).final := by
  unfold sendData lineWrite
  cases s.env.lineAnswer with
  | err e =>
    constructor <;> first
      | rfl
      | exact ⟨[.dc c.dcData], rfl, fun b => by cases b <;> rfl⟩
  | ok =>
    simp only [Run.andThen]
    split
    · unfold logPartial
      split
      · constructor <;> first
          | rfl
          | exact ⟨[.dc c.dcData, .spi bytes _, .partialWrite _ _], by simp [Run.final, lineEvent]; exact ⟨rfl, rfl, rfl⟩, fun b => by cases b <;> rfl⟩
      · constructor <;> first
          | rfl
          | exact ⟨[.dc c.dcData, .spi bytes _], by simp [Run.final, lineEvent]; rfl, fun b => by cases b <;> rfl⟩
    · constructor <;> first
        | rfl
        | exact ⟨[.dc c.dcData, .spi bytes _], by simp [Run.final, lineEvent]; rfl, fun b => by cases b <;> rfl⟩

theorem sendParams_wire (c : Config) (ps : List Byte) (s : State) : Wire s (sendParams c ps s).final := by
  induction ps generalizing s with
  | nil => exact Wire.refl s
  | cons p ps ih => exact (sendByte_wire _ p s).andThen ih

theorem sendCommand_wire (c : Config) (code : Byte) (ps : List Byte) (s : State) : Wire s (sendCommand c code ps s).final :=
  (sendByte_wire _ code s).andThen (sendParams_wire c ps)

theorem sendRows_wire (c : Config) (rows : List (List Byte)) (s : State) : Wire s (sendRows c rows s).final := by
  induction rows generalizing s with
  | nil => exact Wire.refl s
  | cons r rows ih => exact (sendData_wire c r s).andThen ih

theorem sendPlane_wire (c : Config) (code : Byte) (rows : List (List Byte)) (s : State) : Wire s (sendPlane c code rows s).final :=
  (sendByte_wire _ code s).andThen (sendRows_wire c rows)

theorem sendFrame_wire (c : Config) (black red : List (List Byte)) (s : State) : Wire s (sendFrame c black red s).final :=
  ((sendPlane_wire c _ black s).andThen (sendPlane_wire c _ red)).andThen (sendByte_wire _ _)

theorem judge_wire (c : Config) (a : BusyAnswer) (s : State) : Wire s (judge c a s).final := by
  cases a with
  | err e => exact Wire.refl s
  | level v =>
    simp only [judge]
    split
    · constructor <;> first
        | rfl
        | exact ⟨[.busy v], rfl, fun b => by cases b <;> rfl⟩
    · split
      · constructor <;> first
          | rfl
          | exact ⟨[.busy v, .sleep c.pollMs], by simp [Poll.final], fun b => by cases b <;> rfl⟩
      · constructor <;> first
          | rfl
          | exact ⟨[.busy v], rfl, fun b => by cases b <;> rfl⟩

theorem setBusy_wire (l : List BusyAnswer) (s : State) : Wire s (setBusy l s) := by
  constructor <;> first | rfl | exact ⟨[], by simp, Block.nil⟩

theorem setEnv_wire (v : Env) (s : State) : Wire s (setEnv v s) := by
  constructor <;> first | rfl | exact ⟨[], by simp, Block.nil⟩

theorem pollAll_wire (c : Config) (l : List BusyAnswer) (s : State) : Wire s (pollAll c l s).final := by
  induction l generalizing s with
  | nil => exact Wire.refl s
  | cons a l ih =>
    have h := (setBusy_wire l s).trans (judge_wire c a (setBusy l s))
    simp only [pollAll]
    cases hj : judge c a (setBusy l s) with
    | again t => rw [hj] at h; exact h.trans (ih t)
    | ready t => rw [hj] at h; exact h
    | raised e t => rw [hj] at h; exact h

/-! ## The ideal platform -/

/-- What transmission steps do on the ideal platform: the DC line ends at `lv`, these events are appended. -/
def sent (lv : Level) (l : List Event) (s : State) : State :=
  { s with seq := { s.seq with dc := .ofLevel lv }, hist := s.hist ++ l }

theorem sent_sent (lv lv' : Level) (l l' : List Event) (s : State) : sent lv' l' (sent lv l s) = sent lv' (l ++ l') s := by
  simp [sent]

theorem sent_ideal {lv : Level} {l : List Event} {s : State} (h : IdealCalls s) : IdealCalls (sent lv l s) := h

theorem sendByte_ideal {s : State} (h : IdealCalls s) (lv : Level) (b : Byte) : sendByte lv b s = .ok (sent lv (byteEvents lv b) s) := by
  obtain ⟨h1, h2, h3, -, -⟩ := h
  simp [sendByte, lineWrite, Env.lineAnswer, Env.afterLine, Env.spiAnswer, h1, h2, h3, Run.andThen, spiWrite, Env.afterSpi,
    emit, setEnv, setLine, lineEvent, sent, byteEvents]

theorem sendData_ideal {s : State} (h : IdealCalls s) (row : List Byte) :
    sendData Config.hw row s = .ok (sent .high (rowEvents row) s) := by
  obtain ⟨h1, h2, h3, -, -⟩ := h
  have hd : Config.hw.dcData = .high := rfl
  simp [sendData, lineWrite, Env.lineAnswer, Env.afterLine, Env.spiAnswer, h1, h2, h3, Run.andThen, spiWrite, Env.afterSpi,
    emit, setEnv, setLine, lineEvent, sent, rowEvents, logPartial, hd]

/-- The rows of a plane after at least one byte has been sent; DC is then high if there is a row. -/
theorem sendRows_ideal {s : State} (h : IdealCalls s) (rows : List (List Byte)) (hne : rows ≠ []) :
    sendRows Config.hw rows s = .ok (sent .high (rows.flatMap rowEvents) s) := by
  induction rows generalizing s with
  | nil => exact absurd rfl hne
  | cons r rows ih =>
    rw [sendRows, sendData_ideal h]
    simp only [Run.andThen]
    cases rows with
    | nil => simp [sendRows]
    | cons q rows => simp only [ih (sent_ideal h) (by simp), sent_sent, List.flatMap_cons]

theorem sendPlane_ideal {s : State} (h : IdealCalls s) (code : Byte) (rows : List (List Byte)) (hne : rows ≠ []) :
    sendPlane Config.hw code rows s = .ok (sent .high (planeEvents code rows) s) := by
  have hc : Config.hw.dcCommand = .low := rfl
  rw [sendPlane, sendCommandByte, hc, sendByte_ideal h]
  simp only [Run.andThen]
  rw [sendRows_ideal (sent_ideal h) rows hne, sent_sent, planeEvents]

theorem sendFrame_ideal {s : State} (h : IdealCalls s) (black red : List (List Byte)) (hb : black ≠ []) (hr : red ≠ []) :
    sendFrame Config.hw black red s = .ok (sent .low (frameEvents black red) s) := by
  have hc : Config.hw.dcCommand = .low := rfl
  rw [sendFrame, sendPlane_ideal h _ _ hb]
  simp only [Run.andThen]
  rw [sendPlane_ideal (sent_ideal h) _ _ hr, sent_sent]
  simp only
  rw [sendCommandByte, hc, sendByte_ideal (sent_ideal h), sent_sent]
  rfl

theorem sendCommandByte_ideal {s : State} (h : IdealCalls s) (code : Byte) :
    sendCommandByte Config.hw code s = .ok (sent .low (byteEvents .low code) s) := sendByte_ideal h .low code

theorem sendDataByte_ideal {s : State} (h : IdealCalls s) (v : Byte) :
    sendDataByte Config.hw v s = .ok (sent .high (byteEvents .high v) s) := sendByte_ideal h .high v

/-- A command with one parameter (R118). -/
theorem sendCommand_one_ideal {s : State} (h : IdealCalls s) (code p : Byte) :
    sendCommand Config.hw code [p] s = .ok (sent .high (byteEvents .low code ++ byteEvents .high p) s) := by
  simp [sendCommand, sendCommandByte_ideal h, Run.andThen, sendParams, sendDataByte_ideal (sent_ideal h), sent_sent]

/-- A command with three parameters (R118, R123). -/
theorem sendCommand_three_ideal {s : State} (h : IdealCalls s) (code p q r : Byte) :
    sendCommand Config.hw code [p, q, r] s =
      .ok (sent .high (byteEvents .low code ++ byteEvents .high p ++ byteEvents .high q ++ byteEvents .high r) s) := by
  simp [sendCommand, sendCommandByte_ideal h, Run.andThen, sendParams, sendDataByte_ideal (sent_ideal h), sent_sent]

/-! ## WAIT_BUSY on listed samples -/

/-- What polling does: the samples left, the events appended. -/
def waited (rest : List BusyAnswer) (l : List Event) (s : State) : State :=
  { s with env := { s.env with busySamples := rest }, hist := s.hist ++ l }

/-- Samples that read busy are passed over, each with a sleep (R115). -/
theorem pollAll_busy (k : Nat) (rest : List BusyAnswer) (s : State) :
    pollAll Config.hw (busySamples k ++ rest) s = pollAll Config.hw rest (if k = 0 then s else waited rest (busyEvents k) s) := by
  induction k generalizing s with
  | zero => simp [busySamples]
  | succ k ih =>
    have h1 : Config.hw.busyReady = 1 := rfl
    have h0 : Config.hw.busyBusy = 0 := rfl
    have hp : Config.hw.pollMs = 200 := rfl
    rw [busySamples, List.replicate_succ, List.cons_append, pollAll]
    simp only [judge, h1, h0, hp, if_neg (show ¬ (0 : Nat) = 1 by omega), if_true]
    rw [← busySamples, ih]
    cases k <;> simp [waited, delay, emit, setBusy, busyEvents, busySamples, List.replicate_succ]

theorem pollAll_ready (k : Nat) (rest : List BusyAnswer) (s : State) :
    pollAll Config.hw (readyAfter k rest) s = .ready (waited rest (waitEvents k) s) := by
  have h1 : Config.hw.busyReady = 1 := rfl
  rw [readyAfter, pollAll_busy, pollAll]
  simp only [judge, h1, if_true]
  cases k <;> simp [waited, emit, setBusy, waitEvents, busyEvents]

theorem pollAll_unexpected (k v : Nat) (h0 : v ≠ 0) (h1 : v ≠ 1) (rest : List BusyAnswer) (s : State) :
    pollAll Config.hw (busySamples k ++ .level v :: rest) s =
      .raised (.unexpectedSignal v) (waited rest (busyEvents k ++ [.busy v]) s) := by
  have e1 : Config.hw.busyReady = 1 := rfl
  have e0 : Config.hw.busyBusy = 0 := rfl
  rw [pollAll_busy, pollAll]
  simp only [judge, e1, e0, if_neg h0, if_neg h1]
  cases k <;> simp [waited, emit, setBusy, busyEvents]

theorem pollAll_error (k e : Nat) (rest : List BusyAnswer) (s : State) :
    pollAll Config.hw (busySamples k ++ .err e :: rest) s = .raised (.transport e) (waited rest (busyEvents k) s) := by
  rw [pollAll_busy, pollAll]
  simp only [judge]
  cases k <;> simp [waited, setBusy, busyEvents]

theorem pollAll_still (k : Nat) (s : State) (h : s.env.busySamples = busySamples k) :
    pollAll Config.hw (busySamples k) s = .again (waited [] (busyEvents k) s) := by
  have := pollAll_busy k [] s
  rw [List.append_nil] at this
  rw [this, pollAll]
  cases k with
  | zero =>
    obtain ⟨_, _, _, _, _, _, _, _, ⟨_, _, _, _, _, _, _⟩, _, _, _, _, _⟩ := s
    simp_all [waited, busyEvents, busySamples]
  | succ k => simp

end Sys2Proof.Machine
end

