-- ==== Sys2Proof/Laws/Operations.lean ====
section
/-! SUPPORT. What an operation can do, said once: how it ends and what it leaves alone, for each shared operation and, from
those, for every instruction. -/
namespace Sys2Proof.Machine

@[simp] theorem Run.andThen_ok (s : State) (f : State → Run) : (Run.ok s).andThen f = f s := rfl
@[simp] theorem Run.andThen_raised (e : Error) (s : State) (f : State → Run) : (Run.raised e s).andThen f = .raised e s := rfl

/-- An operation that is admitted runs (R132). -/
theorem operation_admitted {s : State} (h : Idle s) {l : List Life} (hl : s.seq.life ∈ l) (f : State → State) : operation l f s = f s := by
  have h1 : s.pending = none := h.1
  have h2 : s.enc.active = false := h.2
  simp [operation, inProgress, h1, h2, hl]

/-- What the steps inside an operation leave unchanged, whichever operation it is. -/
structure Inside (s t : State) : Prop where
  pending : t.pending = s.pending
  inbox : t.inbox = s.inbox
  returns : t.returns = s.returns
  refused : t.refused = s.refused
  life : t.seq.life = s.seq.life
  err : t.seq.err = s.seq.err
  chan : s.chan <+: t.chan
  rasterK : t.rasterK = s.rasterK
  rasterR : t.rasterR = s.rasterR
  hist : ∃ l, t.hist = s.hist ++ l ∧ Block l

theorem Inside.refl (s) : Inside s s := ⟨rfl, rfl, rfl, rfl, rfl, rfl, List.prefix_refl _, rfl, rfl, [], by simp, Block.nil⟩
theorem Inside.trans {s t u} (h : Inside s t) (h' : Inside t u) : Inside s u := by
  obtain ⟨l, hl, bl⟩ := h.hist
  obtain ⟨l', hl', bl'⟩ := h'.hist
  exact ⟨h'.1.trans h.1, h'.2.trans h.2, h'.3.trans h.3, h'.4.trans h.4, h'.5.trans h.5, h'.6.trans h.6, h.7.trans h'.7, h'.8.trans h.8, h'.9.trans h.9, l++l', by rw [hl', hl, List.append_assoc], bl.append bl'⟩
theorem Wire.inside {s t} (h : Wire s t) : Inside s t :=
  ⟨h.pending, h.inbox, h.returns, h.refused, h.life, h.err, by rw [h.chan], h.rasterK, h.rasterR, h.hist⟩
theorem Inside.andThen {s : State} {r : Run} {f : State → Run} (h : Inside s r.final) (hf : ∀ t, Inside t (f t).final) :
    Inside s (r.andThen f).final := by
  cases r with
  | ok t => exact h.trans (hf t)
  | raised e t => exact h

theorem holdRst_inside (c lv s) : Inside s (holdRst c lv s).final := by
  unfold holdRst lineWrite
  cases s.env.lineAnswer with
  | err e => exact ⟨rfl, rfl, rfl, rfl, rfl, rfl, List.prefix_refl _, rfl, rfl, [.rst lv], rfl, fun b => by cases b <;> rfl⟩
  | ok => exact ⟨rfl, rfl, rfl, rfl, rfl, rfl, List.prefix_refl _, rfl, rfl, [.rst lv, .sleep c.settleMs], by simp [Run.andThen, Run.final, delay, emit, setLine, setEnv, lineEvent], fun b => by cases b <;> rfl⟩
theorem resetPulse_inside (c s) : Inside s (resetPulse c s).final := ((holdRst_inside c _ s).andThen (holdRst_inside c _)).andThen (holdRst_inside c _)
theorem exportLine_inside (l s) : Inside s (exportLine l s).final := by
  unfold exportLine
  simp only
  split <;> exact ⟨rfl, rfl, rfl, rfl, rfl, rfl, List.prefix_refl _, rfl, rfl, [.exported l], rfl, fun b => by cases b <;> rfl⟩
theorem setDirection_inside (l d s) : Inside s (setDirection l d s).final := by
  unfold setDirection
  simp only
  split <;> exact ⟨rfl, rfl, rfl, rfl, rfl, rfl, List.prefix_refl _, rfl, rfl, [.direction l d], rfl, fun b => by cases b <;> rfl⟩
theorem configureSpi_inside (c s) : Inside s (configureSpi c s).final := by
  unfold configureSpi
  simp only
  split <;> exact ⟨rfl, rfl, rfl, rfl, rfl, rfl, List.prefix_refl _, rfl, rfl, [.spiConfig _], rfl, fun b => by cases b <;> rfl⟩
theorem acquireAll_inside (c s) : Inside s (acquireAll c s).final := by
  unfold acquireAll
  exact (((((((exportLine_inside _ s).andThen (exportLine_inside _)).andThen (exportLine_inside _)).andThen (setDirection_inside _ _)).andThen (setDirection_inside _ _)).andThen (setDirection_inside _ _)).andThen (configureSpi_inside c))
theorem encodeInto_inside (c a b s) : Inside s (encodeInto c a b s) :=
  ⟨by simp, by simp, by simp, by simp, by simp, by simp, by simp, by simp, by simp, [], by simp, Block.nil⟩
theorem discardPlane_inside (a s) : Inside s (discardPlane a s) :=
  ⟨by simp [discardPlane], by simp [discardPlane], by simp [discardPlane], by simp [discardPlane], by simp [discardPlane], by simp [discardPlane], by simp [discardPlane], by cases a <;> rfl, by cases a <;> rfl, [], by simp [discardPlane], Block.nil⟩
theorem discardFor_inside (op s) : Inside s (discardFor op s) := by
  cases op <;> first | exact Inside.refl s | exact (discardPlane_inside .black s).trans (discardPlane_inside .red _)

/-- How an operation issued from `s` (or taken up again) ends in `t`. -/
inductive EndsAs (start : Nat) (okLife badLife : Life) (s t : State) : Prop
  | ok (r : OpResult) (hr : r.isOk = true) (h : t.returns = s.returns ++ [r]) (hp : t.pending = none) (hl : t.seq.life = okLife) (he : t.seq.err = s.seq.err)
  | err (e : Error) (h : t.returns = s.returns ++ [.error e]) (hp : t.pending = none) (hl : t.seq.life = if t.hist.length = start then s.seq.life else badLife)
        (he : t.seq.err = stickyErr s.seq.err e)
  | wait (op : Waiting) (h : t.returns = s.returns) (hp : t.pending = some ⟨op, start⟩) (hl : t.seq.life = s.seq.life) (he : t.seq.err = s.seq.err)

/-- What it leaves alone: the rasters and HOST's queue; no operation clears the refusal mark; the histories grow (R55, R56). -/
structure Keeps (s t : State) : Prop where
  inbox : t.inbox = s.inbox
  refused : t.refused = s.refused
  chan : s.chan <+: t.chan
  rasterK : t.rasterK = s.rasterK
  rasterR : t.rasterR = s.rasterR
  hist : ∃ l, t.hist = s.hist ++ l ∧ Block l
theorem Inside.keeps {s t u} (h : Inside s t) (h1 : u.inbox = t.inbox) (h2 : u.refused = t.refused) (h3 : u.chan = t.chan) (h4 : u.rasterK = t.rasterK) (h5 : u.rasterR = t.rasterR) (h6 : u.hist = t.hist) : Keeps s u :=
  ⟨h1.trans h.inbox, h2.trans h.refused, h3 ▸ h.chan, h4.trans h.rasterK, h5.trans h.rasterR, by rw [h6]; exact h.hist⟩
/-- `abort` (R132, R155, R170). -/
theorem abort_ends {s t start e okL} (h : Inside s t) : EndsAs start okL .ready s (abort start e t) ∧ Keeps s (abort start e t) := by
  refine ⟨.err e ?_ rfl ?_ ?_, h.keeps rfl rfl rfl rfl rfl rfl⟩
  · show t.returns ++ _ = _; rw [h.returns]
  · show lifeAfterError start t = if t.hist.length = start then s.seq.life else .ready
    rw [lifeAfterError, h.life]
  · show stickyErr t.seq.err e = _; rw [h.err]
/-- The return of a result that is no error. -/
theorem giveBack_ends {s t start L bad r} (h : Inside s t) (hr : OpResult.isOk r = true) (hL : L = s.seq.life) : EndsAs start L bad s (giveBack r t) ∧ Keeps s (giveBack r t) := by
  refine ⟨.ok r hr ?_ rfl ?_ ?_, h.keeps rfl rfl rfl rfl rfl rfl⟩
  · show t.returns ++ _ = _; rw [h.returns]
  · show t.seq.life = _; rw [h.life, hL]
  · show t.seq.err = _; rw [h.err]
/-- The same with a new lifecycle value (R131). -/
theorem giveBack_setLife_ends {s t start L bad r} (h : Inside s t) (hr : OpResult.isOk r = true) : EndsAs start L bad s (giveBack r (setLife L t)) ∧ Keeps s (giveBack r (setLife L t)) := by
  refine ⟨.ok r hr ?_ rfl ?_ ?_, h.keeps rfl rfl rfl rfl rfl rfl⟩
  · show t.returns ++ _ = _; rw [h.returns]
  · rfl
  · show t.seq.err = _; rw [h.err]
/-- `settle` without a lifecycle transition. -/
theorem settle_ends {s : State} {r : Run} {start} (h : Inside s r.final) : EndsAs start s.seq.life .ready s (settle start id r) ∧ Keeps s (settle start id r) := by
  cases r with
  | ok t => exact giveBack_ends h rfl rfl
  | raised e t => exact abort_ends h
/-- `settle` with one. -/
theorem settle_setLife_ends {s : State} {r : Run} {start L} (h : Inside s r.final) : EndsAs start L .ready s (settle start (setLife L) r) ∧ Keeps s (settle start (setLife L) r) := by
  cases r with
  | ok t => exact giveBack_setLife_ends h rfl
  | raised e t => exact abort_ends h
/-- The lifecycle value an operation leads to when its WAIT_BUSY has ended well (R131). -/
def lifeAfterWait (op : Waiting) (l : Life) : Life := if op = .firstSequence then .sequenced else if op = .close then .closed else l
/-- Steps taken before. -/
theorem EndsAs.after {start okL s t u} (h : Inside s t) (h2 : EndsAs start okL .ready t u ∧ Keeps t u) : EndsAs start okL .ready s u ∧ Keeps s u := by
  obtain ⟨he, hr⟩ := h2
  constructor
  · cases he with
    | ok r a b c d e => exact .ok r a (by rw [b, h.returns]) c d (by rw [e, h.err])
    | err x a b c d => exact .err x (by rw [a, h.returns]) b (by rw [c, h.life]) (by rw [d, h.err])
    | wait op a b c d => exact .wait op (by rw [a, h.returns]) b (by rw [c, h.life]) (by rw [d, h.err])
  · obtain ⟨l, a, b⟩ := h.hist
    obtain ⟨l', a', b'⟩ := hr.hist
    exact ⟨hr.1.trans h.inbox, hr.2.trans h.refused, h.chan.trans hr.3, hr.4.trans h.rasterK, hr.5.trans h.rasterR, l++l', by rw [a', a, List.append_assoc], b.append b'⟩
/-- `conclude`. -/
theorem conclude_ends (c) (p : Pending) (s : State) : EndsAs p.start (lifeAfterWait p.op s.seq.life) .ready s (conclude c p s) ∧ Keeps s (conclude c p s) := by
  obtain ⟨op, start⟩ := p
  cases op
  case firstSequence => exact settle_setLife_ends (sendCommand_wire c _ _ s).inside
  case close => exact settle_setLife_ends (sendCommand_wire c _ _ s).inside
  case printImage => exact giveBack_ends (discardFor_inside _ s) rfl rfl
  all_goals exact giveBack_ends (Inside.refl s) rfl rfl
/-- `settlePoll`. -/
theorem settlePoll_ends (c) (p : Pending) {s : State} {r : Poll} (h : Inside s r.final) : EndsAs p.start (lifeAfterWait p.op s.seq.life) .ready s (settlePoll c p r) ∧ Keeps s (settlePoll c p r) := by
  cases r with
  | ready t => have := EndsAs.after h (conclude_ends c p t); have e : t.seq.life = s.seq.life := h.life; rwa [e] at this
  | again t => exact ⟨.wait p.op h.returns rfl h.life h.err, h.keeps rfl rfl rfl rfl rfl rfl⟩
  | raised e t => exact abort_ends (h.trans (discardFor_inside _ t))
/-- `enterWait`. -/
theorem enterWait_ends (c) (p : Pending) (s : State) : EndsAs p.start (lifeAfterWait p.op s.seq.life) .ready s (enterWait c p s) ∧ Keeps s (enterWait c p s) :=
  settlePoll_ends c p (pollAll_wire c _ s).inside
/-- `resumeWait`. -/
theorem resumeWait_ends (c) (p : Pending) (s : State) : EndsAs p.start (lifeAfterWait p.op s.seq.life) .ready s (resumeWait c p s) ∧ Keeps s (resumeWait c p s) := by
  unfold resumeWait
  split
  · exact settlePoll_ends c p ((setEnv_wire _ s).trans (judge_wire c _ _)).inside
  · exact enterWait_ends c p s
/-- `thenWait`. -/
theorem thenWait_ends (c) (p : Pending) {s : State} {r : Run} (h : Inside s r.final) : EndsAs p.start (lifeAfterWait p.op s.seq.life) .ready s (thenWait c p r) ∧ Keeps s (thenWait c p r) := by
  cases r with
  | ok t => have := EndsAs.after h (enterWait_ends c p t); have e : t.seq.life = s.seq.life := h.life; rwa [e] at this
  | raised e t => exact abort_ends (h.trans (discardFor_inside _ t))

/-- What an admitted instruction does: the body of its meaning. -/
def meaning : Instr → State → State
  | .panelSetting => primitive (sendCommand Config.hw Config.hw.cmdPanelSetting [Config.hw.psrP0])
  | .powerOff => commandThenWait Config.hw .powerOff Config.hw.cmdPowerOff
  | .powerOn => commandThenWait Config.hw .powerOn Config.hw.cmdPowerOn
  | .boosterSoftStart => primitive (sendCommand Config.hw Config.hw.cmdBoosterSoftStart (boosterParams Config.hw))
  | .deepSleep => primitive (sendCommand Config.hw Config.hw.cmdDeepSleep [Config.hw.deepSleepCheck])
  | .dataBlack p => sendSource Config.hw Config.hw.cmdDataBlack .black p
  | .displayRefresh => commandThenWait Config.hw .displayRefresh Config.hw.cmdDisplayRefresh
  | .dataRed p => sendSource Config.hw Config.hw.cmdDataRed .red p
  | .initialise => initialiseLines Config.hw
  | .reset => resetPanel Config.hw
  | .sendCommandByte b => primitive (sendCommandByte Config.hw b)
  | .sendDataByte b => primitive (sendDataByte Config.hw b)
  | .sendData b => primitive (sendData Config.hw b)
  | .waitBusy => waitBusy Config.hw
  | .firstSequence => firstSequence Config.hw
  | .clearDisplay => clearDisplay Config.hw
  | .printTricolor => printTricolor Config.hw
  | .printImage r q => printImage Config.hw r q
  | .close => closePanel Config.hw
  | .encodePlane r => encodePlane Config.hw r
/-- Every meaning is the admission check around its body (R132). -/
theorem exec_eq_operation (i s) : exec i s = .next (operation (admittedIn i) (meaning i) s) := by cases i <;> rfl
/-- An admitted instruction. -/
theorem exec_admitted {i s} (hs : Idle s) (hl : s.seq.life ∈ admittedIn i) : exec i s = .next (meaning i s) := by rw [exec_eq_operation, operation_admitted hs hl]
/-- One that is not admitted is refused (R157). -/
theorem exec_refused {i s} (h : ¬ (Idle s ∧ s.seq.life ∈ admittedIn i)) : exec i s = .next (refuse s) := by
  rw [exec_eq_operation, operation, if_neg]
  simp only [Bool.and_eq_true, Bool.not_eq_true', inProgress, Bool.or_eq_false_iff, List.contains_iff_mem]
  rintro ⟨⟨a, b⟩, c⟩
  exact h ⟨⟨by simpa using a, b⟩, c⟩

/-- `primitive`. -/
theorem primitive_ends {s : State} {f : State → Run} (h : Inside s (f s).final) : EndsAs s.hist.length s.seq.life .ready s (primitive f s) ∧ Keeps s (primitive f s) := settle_ends h
/-- `sendSource`. -/
theorem sendSource_ends (c code col p s) : EndsAs s.hist.length s.seq.life .ready s (sendSource c code col p s) ∧ Keeps s (sendSource c code col p s) := by
  cases p with
  | white => exact primitive_ends (sendPlane_wire _ _ _ s).inside
  | stripe n => exact primitive_ends (sendPlane_wire _ _ _ s).inside
  | encoded r =>
    rw [sendSource, sendEncoded]
    split
    · exact abort_ends (Inside.refl s)
    · have h1 := (encodeInto_inside c r.space col s).trans (sendPlane_wire c code (planeRows c col (encodeInto c r.space col s)) (encodeInto c r.space col s)).inside
      have h2 := settle_ends (start := s.hist.length) h1
      obtain ⟨a, b⟩ := h2
      have hd := discardPlane_inside col (settle s.hist.length id (sendPlane c code (planeRows c col (encodeInto c r.space col s)) (encodeInto c r.space col s)))
      simp only
      generalize settle s.hist.length id (sendPlane c code (planeRows c col (encodeInto c r.space col s)) (encodeInto c r.space col s)) = u at *
      constructor
      · cases a with
        | ok r a b c d e => exact .ok r a (by rw [hd.returns, b]) (by rw [hd.pending, c]) (by rw [hd.life, d]) (by rw [hd.err, e])
        | err x a b c d => 
          refine .err x (by rw [hd.returns, a]) (by rw [hd.pending, b]) ?_ (by rw [hd.err, d])
          have : (discardPlane col u).hist = u.hist := by simp [discardPlane]
          rw [hd.life, c, this]
        | wait op a b c d => exact .wait op (by rw [hd.returns, a]) (by rw [hd.pending, b]) (by rw [hd.life, c]) (by rw [hd.err, d])
      · have : (discardPlane col u).hist = u.hist := by simp [discardPlane]
        exact ⟨hd.inbox.trans b.1, hd.refused.trans b.2, by rw [show (discardPlane col u).chan = u.chan by simp [discardPlane]]; exact b.3, hd.rasterK.trans b.4, hd.rasterR.trans b.5, by rw [this]; exact b.6⟩

theorem encodeRed_inside (c red s) : Inside s (encodeRed c red s) := by
  cases red with
  | none => exact Inside.refl s
  | some q => exact encodeInto_inside _ _ _ _
/-- How every admitted instruction ends. -/
theorem meaning_ends (i s) (hl : s.seq.life ∈ admittedIn i) : EndsAs s.hist.length (lifeAfterOk i s.seq.life) (if i = .initialise then .unusable else .ready) s (meaning i s) ∧ Keeps s (meaning i s) := by
  cases i
  case panelSetting => exact primitive_ends (sendCommand_wire _ _ _ s).inside
  case powerOff => exact thenWait_ends _ ⟨.powerOff, _⟩ (sendByte_wire _ _ s).inside
  case powerOn => exact thenWait_ends _ ⟨.powerOn, _⟩ (sendByte_wire _ _ s).inside
  case boosterSoftStart => exact primitive_ends (sendCommand_wire _ _ _ s).inside
  case deepSleep => exact primitive_ends (sendCommand_wire _ _ _ s).inside
  case dataBlack p => exact sendSource_ends _ _ _ p s
  case displayRefresh => exact thenWait_ends _ ⟨.displayRefresh, _⟩ (sendByte_wire _ _ s).inside
  case dataRed p => exact sendSource_ends _ _ _ p s
  case initialise =>
    show EndsAs _ _ _ s (initialiseLines _ s) ∧ Keeps s (initialiseLines _ s)
    have h := acquireAll_inside Config.hw s
    have hg : s.hist.length < (acquireAll Config.hw s).final.hist.length := by
      have h1 : ∃ l, ((exportLine .busy s).final).hist = s.hist ++ .exported .busy :: l := by
        unfold exportLine; simp only; split <;> exact ⟨[], rfl⟩
      have h2 : ∀ r f, (∀ t, Inside t (f t).final) → ∃ l, (Run.andThen r f).final.hist = r.final.hist ++ l := by
        intro r f hf
        cases r with
        | ok t => obtain ⟨l, a, -⟩ := (hf t).hist; exact ⟨l, a⟩
        | raised e t => exact ⟨[], by simp [Run.andThen]⟩
      unfold acquireAll
      obtain ⟨l1, e1⟩ := h1
      obtain ⟨l2, e2⟩ := h2 (exportLine .busy s) _ (exportLine_inside .rst)
      obtain ⟨l3, e3⟩ := h2 ((exportLine .busy s).andThen (exportLine .rst)) _ (exportLine_inside .dc)
      obtain ⟨l4, e4⟩ := h2 (((exportLine .busy s).andThen (exportLine .rst)).andThen (exportLine .dc)) _ (setDirection_inside .busy .input)
      obtain ⟨l5, e5⟩ := h2 ((((exportLine .busy s).andThen (exportLine .rst)).andThen (exportLine .dc)).andThen (setDirection .busy .input)) _ (setDirection_inside .rst .output)
      obtain ⟨l6, e6⟩ := h2 (((((exportLine .busy s).andThen (exportLine .rst)).andThen (exportLine .dc)).andThen (setDirection .busy .input)).andThen (setDirection .rst .output)) _ (setDirection_inside .dc .output)
      obtain ⟨l7, e7⟩ := h2 ((((((exportLine .busy s).andThen (exportLine .rst)).andThen (exportLine .dc)).andThen (setDirection .busy .input)).andThen (setDirection .rst .output)).andThen (setDirection .dc .output)) _ (configureSpi_inside Config.hw)
      rw [e7, e6, e5, e4, e3, e2, e1]; simp
    unfold initialiseLines
    cases hr : acquireAll Config.hw s with
    | ok t => rw [hr] at h; exact giveBack_setLife_ends h rfl
    | raised e t =>
      rw [hr] at h hg
      have h : Inside s t := h
      refine ⟨.err e ?_ rfl ?_ ?_, h.keeps rfl rfl rfl rfl rfl rfl⟩
      · show t.returns ++ _ = _; rw [h.returns]
      · show Life.unusable = if t.hist.length = _ then _ else _
        rw [if_neg (by have : s.hist.length < t.hist.length := hg; omega)]; rfl
      · show stickyErr t.seq.err e = _; rw [h.err]
  case reset => exact settle_setLife_ends (resetPulse_inside _ s)
  case sendCommandByte b => exact primitive_ends (sendByte_wire _ _ s).inside
  case sendDataByte b => exact primitive_ends (sendByte_wire _ _ s).inside
  case sendData b => exact primitive_ends (sendData_wire _ _ s).inside
  case waitBusy => exact enterWait_ends _ ⟨.waitBusy, _⟩ s
  case firstSequence => exact thenWait_ends _ ⟨.firstSequence, _⟩ ((sendCommand_wire _ _ _ s).andThen (sendByte_wire _ _)).inside
  case clearDisplay => exact thenWait_ends _ ⟨.clearDisplay, _⟩ (sendFrame_wire _ _ _ s).inside
  case printTricolor => exact thenWait_ends _ ⟨.printTricolor, _⟩ (sendFrame_wire _ _ _ s).inside
  case close => exact thenWait_ends _ ⟨.close, _⟩ (sendByte_wire _ _ s).inside
  case printImage r q =>
    rw [if_neg (by simp)]
    show EndsAs _ _ _ s (printImage _ r q s) ∧ Keeps s (printImage _ r q s)
    unfold printImage
    cases validateArg Config.hw r with
    | some e => exact abort_ends (Inside.refl s)
    | none =>
      simp only
      cases validateOpt Config.hw q with
      | some e => exact abort_ends (Inside.refl s)
      | none => exact thenWait_ends _ ⟨.printImage, _⟩ (((encodeInto_inside _ _ _ s).trans (encodeRed_inside _ _ _)).trans (sendFrame_wire _ _ _ _).inside)
  case encodePlane r =>
    rw [if_neg (by simp)]
    show EndsAs _ _ _ s (encodePlane _ r s) ∧ Keeps s (encodePlane _ r s)
    unfold encodePlane
    cases validateArg Config.hw r with
    | some e => exact abort_ends (Inside.refl s)
    | none => exact giveBack_ends (r := .okPlane _) ((encodeInto_inside _ _ _ s).trans (discardPlane_inside _ _)) rfl rfl

end Sys2Proof.Machine
end

