-- ==== Sys2Proof/Laws/PerInstr.lean ====
section
/-! SUPPORT. Facts stated for each instruction. `EncodeCode`: its encoding uses no reserved code (R72, R78) and no operand its
format does not have (R68, R76). -/
namespace Sys2Proof.Laws.EncodeCode

/-- A host operation's code is below 0xC and carries no plane; a panel command's byte is one of the eight of R69 and carries
neither bytes nor rasters. -/
def Statement (i : Instr) : Prop :=
  match encode i with
  | .hostOp op a => op.toNat < 12 ∧ a.source = none
  | .panelCmd code a => code ∈ [(0x00 : Byte), 0x02, 0x04, 0x06, 0x07, 0x10, 0x12, 0x13] ∧ a.bytes = [] ∧ a.rasters = []

theorem panelSetting : Statement .panelSetting := ⟨by decide, rfl, rfl⟩
theorem powerOff : Statement .powerOff := ⟨by decide, rfl, rfl⟩
theorem powerOn : Statement .powerOn := ⟨by decide, rfl, rfl⟩
theorem boosterSoftStart : Statement .boosterSoftStart := ⟨by decide, rfl, rfl⟩
theorem deepSleep : Statement .deepSleep := ⟨by decide, rfl, rfl⟩
theorem dataBlack (p : PlaneSource) : Statement (.dataBlack p) := ⟨by decide, rfl, rfl⟩
theorem displayRefresh : Statement .displayRefresh := ⟨by decide, rfl, rfl⟩
theorem dataRed (p : PlaneSource) : Statement (.dataRed p) := ⟨by decide, rfl, rfl⟩
theorem initialise : Statement .initialise := ⟨by decide, rfl⟩
theorem reset : Statement .reset := ⟨by decide, rfl⟩
theorem sendCommandByte (code : Byte) : Statement (.sendCommandByte code) := ⟨by decide, rfl⟩
theorem sendDataByte (value : Byte) : Statement (.sendDataByte value) := ⟨by decide, rfl⟩
theorem sendData (bytes : List Byte) : Statement (.sendData bytes) := ⟨by decide, rfl⟩
theorem waitBusy : Statement .waitBusy := ⟨by decide, rfl⟩
theorem firstSequence : Statement .firstSequence := ⟨by decide, rfl⟩
theorem clearDisplay : Statement .clearDisplay := ⟨by decide, rfl⟩
theorem printTricolor : Statement .printTricolor := ⟨by decide, rfl⟩
theorem printImage (raster : RasterArg) (red : Option RasterArg) : Statement (.printImage raster red) := ⟨by decide, rfl⟩
theorem close : Statement .close := ⟨by decide, rfl⟩
theorem encodePlane (raster : RasterArg) : Statement (.encodePlane raster) := ⟨by decide, rfl⟩

end Sys2Proof.Laws.EncodeCode
end

