-- ==== Sys2Proof/Laws/Step.lean ====
section
/-! SUPPORT. What a step does, said once: a further poll, one move of HOST, or nothing. -/
namespace Sys2Proof.Machine

@[simp] theorem hostWaits_nil {s : State} (h : s.inbox = []) : hostWaits s = true := by simp [hostWaits, h]
theorem hostWaits_cons {s : State} {m : HostMove} {rest : List HostMove} (h : s.inbox = m :: rest) : hostWaits s = true ↔ m = .await := by
  cases m <;> simp [hostWaits, h]

/-- An operation that stands in its WAIT_BUSY polls on while HOST waits (R117). -/
theorem step_polls {s : State} {p : Pending} (h : s.pending = some p) (hw : hostWaits s = true) :
    step s = .next (resumeWait Config.hw p s) := by
  simp only [step, oneStep, h, hw, if_true]

/-- The outcome of a further poll that passes over `k` busy samples and meets the answer `a` (R115). -/
def polledOutcome (s : State) (k : Nat) (a : BusyAnswer) (v : Env) : Poll :=
  match a with
  | .err e => .raised (.transport e) { s with env := v, hist := s.hist ++ busyEvents k }
  | .level u =>
    if u = 1 then .ready { s with env := v, hist := s.hist ++ waitEvents k }
    else if u = 0 then pollAll Config.hw v.busySamples { s with env := v, hist := s.hist ++ busyEvents (k + 1) }
    else .raised (.unexpectedSignal u) { s with env := v, hist := s.hist ++ (busyEvents k ++ [.busy u]) }

/-- Everything a further poll can do, whether the sample is at hand or drawn. -/
theorem step_polled {s : State} {p : Pending} {k a v} (hp : s.pending = some p) (hw : hostWaits s = true) (h : Polled s k a v) :
    step s = .next (settlePoll Config.hw p (polledOutcome s k a v)) := by
  rw [step_polls hp hw]
  have e1 : Config.hw.busyReady = 1 := rfl
  have e0 : Config.hw.busyBusy = 0 := rfl
  have ep : Config.hw.pollMs = 200 := rfl
  rcases h with ⟨rest, hs, rfl⟩ | ⟨rfl, hs, rfl, rfl⟩
  · have : resumeWait Config.hw p s = settlePoll Config.hw p (pollAll Config.hw (busySamples k ++ a :: rest) s) := by
      cases k <;> simp [resumeWait, hs, busySamples, List.replicate_succ, enterWait]
    rw [this]
    cases a with
    | err e => rw [pollAll_error]; rfl
    | level u =>
      simp only [polledOutcome]
      split
      · next h => subst h; exact congrArg (fun x => Host.Outcome.next (settlePoll Config.hw p x)) (pollAll_ready k rest s)
      · next h1 =>
        split
        · next h0 =>
          subst h0
          have := pollAll_busy (k+1) rest s
          have e : busySamples (k+1) ++ rest = busySamples k ++ .level 0 :: rest := by
            simp [busySamples, List.replicate_succ']
          rw [e] at this
          rw [this, if_neg (by simp)]; rfl
        · next h0 => rw [pollAll_unexpected k u h0 h1]; rfl
  · simp only [resumeWait, hs]
    cases ha : s.env.busyAnswer with
    | err e => simp [judge, setEnv, busyEvents, polledOutcome]
    | level u =>
      simp only [judge, e1, e0, ep, polledOutcome]
      split
      · next h => subst h; simp [emit, setEnv, waitEvents, busyEvents]
      · split
        · next h0 => subst h0; simp [Env.drawn, hs, pollAll, delay, emit, setEnv, busyEvents]
        · simp [emit, setEnv, busyEvents]

/-- HOST's next move is run if no operation stands in its WAIT_BUSY, or if HOST does not wait (R16). -/
theorem step_moves {s : State} {m : HostMove} {rest : List HostMove} (hi : s.inbox = m :: rest) (h : s.pending = none ∨ m ≠ .await) :
    step s = runMove m (setInbox rest s) := by
  rcases hp : s.pending with _ | p
  · simp only [step, oneStep, hp, runInbox, hi]
  · have hw : ¬ hostWaits s = true := fun hw => (h.resolve_left (by simp [hp])) ((hostWaits_cons hi).1 hw)
    simp only [step, oneStep, hp, if_neg hw, runInbox, hi]

/-- With nothing to do, nothing happens. -/
theorem step_rests {s : State} (hi : s.inbox = []) (h : s.pending = none) : step s = .next s := by
  simp only [step, oneStep, h, runInbox, hi]

/-- The three things a step can be. -/
theorem step_cases (s : State) :
    (∃ p, s.pending = some p ∧ hostWaits s = true ∧ step s = .next (resumeWait Config.hw p s)) ∨
    (∃ m rest, s.inbox = m :: rest ∧ (s.pending = none ∨ m ≠ .await) ∧ step s = runMove m (setInbox rest s)) ∨
    (s.inbox = [] ∧ s.pending = none ∧ step s = .next s) := by
  rcases hi : s.inbox with _ | ⟨m, rest⟩
  · rcases hp : s.pending with _ | p
    · exact .inr (.inr ⟨rfl, rfl, step_rests hi hp⟩)
    · exact .inl ⟨p, rfl, hostWaits_nil hi, step_polls hp (hostWaits_nil hi)⟩
  · by_cases h : s.pending = none ∨ m ≠ .await
    · exact .inr (.inl ⟨m, rest, rfl, h, step_moves hi h⟩)
    · obtain ⟨h1, h2⟩ := not_or.1 h
      obtain ⟨p, hp⟩ := Option.ne_none_iff_exists'.1 h1
      have hw := (hostWaits_cons hi).2 (not_not.1 h2)
      exact .inl ⟨p, hp, hw, step_polls hp hw⟩

/-- A move HOST makes while an operation is in progress is refused (R16, R106, R157), but for a sample of the stream in progress. -/
theorem busy_refuses {s : State} (h : ¬ Idle s) {m : HostMove}
    (hm : (∃ c, m = .call c) ∨ (∃ col bs, m = .supply col bs) ∨ ∃ col w h, m = .start col w h) : runMove m s = .next (refuse s) := by
  have hb : inProgress s = true := by
    unfold inProgress
    rcases hp : s.pending with _ | p
    · cases ha : s.enc.active with
      | false => exact absurd ⟨hp, ha⟩ h
      | true => rfl
    · rfl
  rcases hm with ⟨c, rfl⟩ | ⟨col, bs, rfl⟩ | ⟨col, w, hh, rfl⟩
  · simp only [runMove]
    split
    · exact exec_refused fun hh => h hh.1
    · rfl
  · simp only [runMove, supplyRaster, hb, if_true]
  · simp only [runMove, encStart, hb, if_true]

end Sys2Proof.Machine
end

