-- ==== Sys2Proof/Tests/Slice0.lean ====
section
/-! SUPPORT. Small tests, their results taken from the spec (95_test_vectors.md and the rules' own examples), and a witness for
the hypotheses of every statement of Certificates/Slice0/Obligations.lean. -/
namespace Sys2Proof.Tests
open Sys2Proof.Machine

/-! ## Helpers -/

/-- The ideal platform of R110, with these busy samples next. -/
def platform (busy : List BusyAnswer) : Env := ⟨[], [], [], [], busy, true, 0⟩

/-- A small state in a lifecycle value. -/
def inLife (l : Life) (busy : List BusyAnswer) : State :=
  { State.reset with seq := ⟨.unknown, .unknown, l, none⟩, env := platform busy }

/-- The same with platform answers to line writes and to SPI transactions. -/
def answering (l : Life) (lines : List CallAnswer) (spi : List SpiAnswer) : State :=
  { inLife l [] with env := { platform [] with lineAnswers := lines, spiAnswers := spi } }

/-- The same with answers to acquisitions and direction-sets. -/
def acquiring (acq : List Bool) (dirs : List CallAnswer) : State :=
  { inLife .constructed [] with env := { platform [] with acquireAnswers := acq, directionAnswers := dirs } }

/-- The same with HOST's queue. -/
def asked (l : Life) (moves : List HostMove) : State := { inLife l [] with inbox := moves }

/-- The same with an operation in its WAIT_BUSY. -/
def waiting (op : Waiting) (l : Life) (busy : List BusyAnswer) : State := { inLife l busy with pending := some ⟨op, 0⟩ }

/-- ENC inside a stream. -/
def streaming (row grp j : Nat) : State := { inLife .closed [] with enc := ⟨row, grp, j, 0, true, .black⟩ }

/-- The next state, or the state before where there is none. -/
def after (o : Host.Outcome State Fault Refusal) (s : State) : State :=
  match o with
  | .next t => t
  | .fault _ => s
  | .refused _ => s

/-- The state after one instruction. -/
def run (i : Instr) (s : State) : State := after (exec i s) s

/-- A panel of 16 by 3 pixels. -/
def tiny : Config := { Config.hw with width := 16, height := 3, tricolorBlackRow := 1, tricolorRedRow := 2 }

/-- A raster of the panel's size in RASTER_K, and in RASTER_R. -/
def sizedK : RasterArg := ⟨.black, 400, 300⟩
def sizedR : RasterArg := ⟨.red, 400, 300⟩

/-! ## Well-formedness: an ill-formed term for each check (R8, R39, R93, R94) -/

theorem test_hw_is_well_formed : Config.hw.wellFormed = true := by decide
theorem test_config_width_zero : ({ Config.hw with width := 0 } : Config).wellFormed = false := by decide
theorem test_config_height_zero : ({ Config.hw with height := 0 } : Config).wellFormed = false := by decide
theorem test_config_width_not_multiple : ({ Config.hw with width := 401 } : Config).wellFormed = false := by decide
theorem test_config_group : ({ Config.hw with group := 4 } : Config).wellFormed = false := by decide
theorem test_config_sample_bits : ({ Config.hw with sampleBits := 7 } : Config).wellFormed = false := by decide
theorem test_config_threshold : ({ Config.hw with threshold := 256 } : Config).wellFormed = false := by decide
theorem test_stripe_too_long_black :
    decode (.panelCmd 0x10 ⟨[], [], some (.stripe 301)⟩) = .error .illFormed ∧ Instr.wellFormed (.dataBlack (.stripe 300)) = true := ⟨rfl, rfl⟩
theorem test_stripe_too_long_red :
    decode (.panelCmd 0x13 ⟨[], [], some (.stripe 301)⟩) = .error .illFormed ∧ Instr.wellFormed (.dataRed (.stripe 300)) = true := ⟨rfl, rfl⟩
theorem test_black_plane_from_red_raster : decode (.panelCmd 0x10 ⟨[], [], some (.encoded sizedR)⟩) = .error .illFormed := rfl
theorem test_red_plane_from_black_raster : decode (.panelCmd 0x13 ⟨[], [], some (.encoded sizedK)⟩) = .error .illFormed := rfl
theorem test_image_first_raster_red : decode (.hostOp 0x9 ⟨[], [sizedR], none⟩) = .error .illFormed := rfl
theorem test_image_second_raster_black : decode (.hostOp 0x9 ⟨[], [sizedK, sizedK], none⟩) = .error .illFormed := rfl

/-! ## Decoding: the codes of R69 and R76, bit by bit, and the shapes of R76 -/

theorem test_decode_panelSetting : decode (.panelCmd 0b00000000 .empty) = .ok .panelSetting := rfl
theorem test_decode_powerOff : decode (.panelCmd 0b00000010 .empty) = .ok .powerOff := rfl
theorem test_decode_powerOn : decode (.panelCmd 0b00000100 .empty) = .ok .powerOn := rfl
theorem test_decode_boosterSoftStart : decode (.panelCmd 0b00000110 .empty) = .ok .boosterSoftStart := rfl
theorem test_decode_deepSleep : decode (.panelCmd 0b00000111 .empty) = .ok .deepSleep := rfl
theorem test_decode_dataBlack : decode (.panelCmd 0b00010000 ⟨[], [], some (.encoded sizedK)⟩) = .ok (.dataBlack (.encoded sizedK)) := rfl
theorem test_decode_displayRefresh : decode (.panelCmd 0b00010010 .empty) = .ok .displayRefresh := rfl
theorem test_decode_dataRed : decode (.panelCmd 0b00010011 ⟨[], [], some .white⟩) = .ok (.dataRed .white) := rfl
theorem test_decode_initialise : decode (.hostOp 0b0000 .empty) = .ok .initialise := rfl
theorem test_decode_reset : decode (.hostOp 0b0001 .empty) = .ok .reset := rfl
theorem test_decode_sendCommandByte : decode (.hostOp 0b0010 ⟨[0x12], [], none⟩) = .ok (.sendCommandByte 0x12) := rfl
theorem test_decode_sendDataByte : decode (.hostOp 0b0011 ⟨[0xA5], [], none⟩) = .ok (.sendDataByte 0xA5) := rfl
theorem test_decode_sendData : decode (.hostOp 0b0100 ⟨[1, 2, 3], [], none⟩) = .ok (.sendData [1, 2, 3]) := rfl
theorem test_decode_waitBusy : decode (.hostOp 0b0101 .empty) = .ok .waitBusy := rfl
theorem test_decode_firstSequence : decode (.hostOp 0b0110 .empty) = .ok .firstSequence := rfl
theorem test_decode_clearDisplay : decode (.hostOp 0b0111 .empty) = .ok .clearDisplay := rfl
theorem test_decode_printTricolor : decode (.hostOp 0b1000 .empty) = .ok .printTricolor := rfl
theorem test_decode_printImage : decode (.hostOp 0b1001 ⟨[], [sizedK, sizedR], none⟩) = .ok (.printImage sizedK (some sizedR)) := rfl
theorem test_decode_close : decode (.hostOp 0b1010 .empty) = .ok .close := rfl
theorem test_decode_encodePlane : decode (.hostOp 0b1011 ⟨[], [sizedR], none⟩) = .ok (.encodePlane sizedR) := rfl
theorem test_decode_reserved_operation : decode (.hostOp 0b1100 .empty) = .error (.reservedOperation 0xC) := rfl
theorem test_decode_reserved_command : decode (.panelCmd 0x11 .empty) = .error (.reservedCommand 0x11) := rfl
theorem test_decode_operand_shape : decode (.hostOp 0b0010 ⟨[1, 2], [], none⟩) = .error .operandShape := rfl
theorem test_table_numbers : decodeTableWord 8 0x0B = some (.encodePlane ⟨.black, 0, 0⟩) ∧ decodeTableWord 8 0x13 = some (.dataRed (.stripe 0)) ∧
    decodeTableWord 8 0x14 = none ∧ decodeTableWord 16 0xA503 = some (.sendDataByte 0xA5) := ⟨rfl, rfl, rfl, rfl⟩
/-- The codes of the two data commands come from the configuration (R2). -/
theorem test_table_data_codes : decodeTableWord 8 0x10 = some (.dataBlack (.stripe 0)) ∧ Config.hw.cmdDataBlack = 0x10 ∧ Config.hw.cmdDataRed = 0x13 := ⟨rfl, rfl, rfl⟩
theorem test_fetch : step ((inLife .constructed []).withFetchWord 8 0x00) = exec .initialise (inLife .constructed []) := rfl

/-! ## ENC: vectors V1 to V19b, V43, V45 and the example of R90, on the spec's numbers -/

theorem test_V1_to_V9 : ([0, 1, 64, 126, 127, 128, 129, 200, 255] : List Byte).map (bit Config.hw) = [0, 0, 0, 0, 0, 1, 1, 1, 1] := by decide
theorem test_V10_to_V14 : pack8 Config.hw 0 0 0 0 0 0 0 0 = 0x00 ∧ pack8 Config.hw 255 255 255 255 255 255 255 255 = 0xFF ∧
    pack8 Config.hw 127 128 127 128 127 128 127 128 = 0x55 ∧ pack8 Config.hw 128 127 128 127 128 127 128 127 = 0xAA ∧
    pack8 Config.hw 0 255 255 255 255 255 255 255 = 0x7F := by decide
theorem test_V15_to_V19b : pack8 Config.hw 255 255 255 255 255 255 255 0 = 0xFE ∧ pack8 Config.hw 255 0 0 0 0 0 0 0 = 0x80 ∧
    pack8 Config.hw 0 0 0 0 0 0 0 255 = 0x01 ∧ pack8 Config.hw 127 127 127 127 128 128 128 128 = 0x0F ∧
    pack8 Config.hw 200 100 50 150 128 127 129 0 = 0x9A ∧ pack8 Config.hw 128 128 0 0 128 128 0 0 = 0xCC ∧
    pack8 Config.hw 1 2 4 8 16 32 64 128 = 0x01 := by decide
theorem test_V25_row_1_byte_15 : encodeGroup Config.hw (fun y x => BitVec.ofNat 8 (x + y)) 1 15 = 0x01 := by decide
theorem test_V27_row_0_byte_2 : encodeGroup Config.hw (fun y x => BitVec.ofNat 8 (7 * x + 13 * y)) 0 2 = 0x1F := by decide
theorem test_V43_eighth_pixel : (encPixel Config.hw 0 { streaming 0 0 7 with enc := ⟨0, 0, 7, 0x4D, true, .black⟩ }).chan = [.byteOut 0x9A] := by decide
theorem test_V44_row_end : (encPixel Config.hw 0 (streaming 0 49 7)).enc = ⟨1, 0, 0, 0, true, .black⟩ := by decide
theorem test_V45_pixel_while_idle : (encPixel Config.hw 5 (inLife .ready [])).refused = true := by decide
theorem test_tiny_encode : encodeRaster tiny (fun y x => if x = y then 0 else 255) = [[0x7F, 0xFF], [0xBF, 0xFF], [0xDF, 0xFF]] := by decide
theorem test_tiny_stripe : stripePlane tiny 1 = [[0xFF, 0xFF], [0, 0], [0, 0]] := by decide

/-! ## The operations: vectors V36, V46 to V71 and the examples of R133 to R142 -/

theorem test_V36 : (run (.encodePlane ⟨.black, 300, 400⟩) (inLife .closed [])).returns = [.error (.sizeMismatch 300 400)] := by decide
theorem test_V46 : (run (.sendCommandByte 0x12) (inLife .ready [])).hist = [.dc .low, .spi [0x12] (.ok 1)] := by decide
theorem test_V48 : (run (.sendDataByte 0xA5) (inLife .ready [])).hist = [.dc .high, .spi [0xA5] (.ok 1)] := by decide
theorem test_V50 : (run (.sendData [1, 2, 3]) (answering .ready [] [.ok 2])).hist =
    [.dc .high, .spi [1, 2, 3] (.ok 2), .partialWrite 3 2] := by decide
theorem test_V51 : (run (.sendData []) (inLife .ready [])).hist = [.dc .high, .spi [] (.ok 0)] := by decide
theorem test_V53 : (run (.sendCommandByte 0x10) (answering .sequenced [.err 9] [])).hist = [.dc .low] ∧
    (run (.sendCommandByte 0x10) (answering .sequenced [.err 9] [])).seq = ⟨.unknown, .unknown, .ready, some .transport⟩ := by decide
theorem test_V55 : (run .waitBusy (inLife .ready [.level 0, .level 0, .level 1])).hist =
    [.busy 0, .sleep 200, .busy 0, .sleep 200, .busy 1] := by decide
theorem test_V56 : (run .waitBusy (inLife .sequenced [.level 0, .level 2])).returns = [.error (.unexpectedSignal 2)] := by decide
theorem test_V60 : (run .initialise (inLife .constructed [])).hist = [.exported .busy, .exported .rst, .exported .dc,
    .direction .busy .input, .direction .rst .output, .direction .dc .output, .spiConfig ⟨4000000, 8, true, .low, .leading⟩] := by decide
theorem test_V61 : (run .initialise (acquiring [true, true, false] [])).seq.life = .unusable := by decide
theorem test_V63 : (run .reset (inLife .ready [])).seq = ⟨.unknown, .high, .resetDone, none⟩ := by decide
theorem test_V64 : (run .firstSequence (inLife .resetDone [.level 1])).seq = ⟨.high, .unknown, .sequenced, none⟩ ∧
    (run .firstSequence (inLife .resetDone [.level 1])).hist.length = 15 := by decide
theorem test_V67 : (run .close (inLife .sequenced [.level 0, .level 1])).hist = [.dc .low, .spi [0x02] (.ok 1), .busy 0, .sleep 200,
    .busy 1, .dc .low, .spi [0x07] (.ok 1), .dc .high, .spi [0xA5] (.ok 1)] := by decide
theorem test_V68 : (run .clearDisplay (inLife .ready [])).refused = true ∧ (run .clearDisplay (inLife .ready [])).hist = [] := by decide
theorem test_V70 : (run .reset (inLife .closed [])).refused = true := by decide
theorem test_panelSetting : (run .panelSetting (inLife .ready [])).hist =
    [.dc .low, .spi [0x00] (.ok 1), .dc .high, .spi [Config.openPsrP0] (.ok 1)] := rfl
theorem test_boosterSoftStart : (run .boosterSoftStart (inLife .ready [])).hist = [.dc .low, .spi [0x06] (.ok 1), .dc .high,
    .spi [Config.openBtstP0] (.ok 1), .dc .high, .spi [Config.openBtstP1] (.ok 1), .dc .high, .spi [Config.openBtstP2] (.ok 1)] := rfl
theorem test_deepSleep : (run .deepSleep (inLife .ready [])).hist =
    [.dc .low, .spi [0x07] (.ok 1), .dc .high, .spi [0xA5] (.ok 1)] := by decide
theorem test_powerOn : (run .powerOn (inLife .ready [.level 1])).hist = [.dc .low, .spi [0x04] (.ok 1), .busy 1] := by decide
theorem test_powerOff_waits : (run .powerOff (inLife .ready [])).pending = some ⟨.powerOff, 0⟩ := by decide
theorem test_displayRefresh : (run .displayRefresh (inLife .ready [.level 1])).hist = [.dc .low, .spi [0x12] (.ok 1), .busy 1] := by decide
theorem test_dataBlack_tiny : (sendSource tiny 0x10 .black (.stripe 2) (inLife .ready [])).hist = [.dc .low, .spi [0x10] (.ok 1),
    .dc .high, .spi [0xFF, 0xFF] (.ok 2), .dc .high, .spi [0xFF, 0xFF] (.ok 2), .dc .high, .spi [0, 0] (.ok 2)] := by decide
theorem test_dataRed_wrong_size : (run (.dataRed (.encoded ⟨.red, 400, 299⟩)) (inLife .ready [])).returns = [.error (.sizeMismatch 400 299)] := by decide
theorem test_clearDisplay_tiny : bytesSent (clearDisplay tiny (inLife .sequenced [.level 1])).hist =
    [0x10, 0xFF, 0xFF, 0xFF, 0xFF, 0xFF, 0xFF, 0x13, 0xFF, 0xFF, 0xFF, 0xFF, 0xFF, 0xFF, 0x12] := by decide
theorem test_printTricolor_tiny : bytesSent (printTricolor tiny (inLife .sequenced [.level 1])).hist =
    [0x10, 0xFF, 0xFF, 0, 0, 0, 0, 0x13, 0xFF, 0xFF, 0xFF, 0xFF, 0, 0, 0x12] := by decide
/-- A black raster of zeros, supplied; the red plane is white (R141). -/
theorem test_printImage_tiny : bytesSent (printImage tiny ⟨.black, 16, 3⟩ none
      (supplyRaster .black (List.replicate 48 0) (inLife .sequenced [.level 1]))).hist =
    [0x10, 0, 0, 0, 0, 0, 0, 0x13, 0xFF, 0xFF, 0xFF, 0xFF, 0xFF, 0xFF, 0x12] := by decide
/-- P4, step 3: the first raster is checked first. -/
theorem test_printImage_sizes : (run (.printImage ⟨.black, 300, 400⟩ (some ⟨.red, 400, 299⟩)) (inLife .sequenced [])).seq =
    ⟨.unknown, .unknown, .sequenced, some .sizeMismatch⟩ := by decide
theorem test_encodePlane_tiny : (encodePlane tiny ⟨.red, 16, 3⟩
    (supplyRaster .red (List.replicate 48 200) (inLife .closed []))).returns = [.okPlane [[0xFF, 0xFF], [0xFF, 0xFF], [0xFF, 0xFF]]] := by decide
/-- P5, step 1: the panel-setting command is never sent. -/
theorem test_firstSequence_fails : (run .firstSequence (inLife .resetDone [.level 0, .level 2])).hist.length = 13 ∧
    (run .firstSequence (inLife .resetDone [.level 0, .level 2])).seq.life = .ready := by decide

/-! ## Moves made while an operation stands in its WAIT_BUSY (R16, R117, R157, R186) -/

/-- The move is taken and refused; the operation stands on and no sample is taken. -/
theorem test_call_while_waiting_is_refused : step { waiting .close .ready [.level 1] with inbox := [.call (encode .reset)] } =
    .next { waiting .close .ready [.level 1] with refused := true } := rfl
theorem test_raster_while_waiting_is_refused : step { waiting .printImage .sequenced [.level 1] with inbox := [.supply .red [1, 2]] } =
    .next { waiting .printImage .sequenced [.level 1] with refused := true } := rfl
/-- HOST waits: the operation polls and ends, the wait still stands in the queue and is taken without effect by the next step. -/
theorem test_await_polls : step { waiting .powerOn .ready [.level 1] with inbox := [.await] } =
    .next { inLife .ready [] with inbox := [.await], hist := [.busy 1], returns := [.ok] } := rfl
theorem test_await_without_operation : step (asked .ready [.await]) = .next (asked .ready []) := rfl

/-! ## Witnesses: states and operands that meet the hypotheses of the statements -/

theorem idle_inLife (l : Life) (busy : List BusyAnswer) : Idle (inLife l busy) := ⟨rfl, rfl⟩
theorem idle_answering (l : Life) (lines : List CallAnswer) (spi : List SpiAnswer) : Idle (answering l lines spi) ∧ (answering l lines spi).seq.life = l :=
  ⟨⟨rfl, rfl⟩, rfl⟩
theorem idle_acquiring (acq : List Bool) (dirs : List CallAnswer) : Idle (acquiring acq dirs) ∧ (acquiring acq dirs).seq.life = .constructed := ⟨⟨rfl, rfl⟩, rfl⟩
theorem ideal_inLife (l : Life) (busy : List BusyAnswer) : IdealCalls (inLife l busy) := ⟨rfl, rfl, rfl, rfl, rfl⟩

theorem witness_EncodingRecoversInkBitForBit : (299 : Nat) < 300 ∧ (399 : Nat) < 400 := by decide
theorem witness_EveryPlaneHas300RowsOf50Bytes : ∃ P : List (List Byte), P = stripePlane Config.hw 300 ∧ P = encodeRaster Config.hw fun _ _ => 255 := by
  refine ⟨_, rfl, ?_⟩
  unfold stripePlane encodeRaster encodeRow
  refine List.map_congr_left fun y hy => ?_
  have hy : y < 300 := List.mem_range.1 hy
  rw [if_pos hy]
  refine (List.eq_replicate_iff.2 ⟨by simp, fun b hb => ?_⟩).symm
  obtain ⟨k, -, rfl⟩ := List.mem_map.1 hb
  show pack8 Config.hw 255 255 255 255 255 255 255 255 = 0xFF
  decide
theorem witness_ConstantPlanesAreEncodings : (∀ y x, y < 300 → x < 400 → 128 ≤ ((fun _ _ => 255 : Nat → Nat → Byte) y x).toNat) ∧
    (∀ y x, y < 300 → x < 400 → (y < 200 ↔ 128 ≤ ((fun y _ => if y < 200 then 128 else 127 : Nat → Nat → Byte) y x).toNat)) := by
  refine ⟨fun _ _ _ _ => show 128 ≤ (255 : Byte).toNat by decide, fun y x _ _ => ?_⟩
  by_cases h : y < 200 <;> simp [h]
theorem witness_StreamingEncoderRefinesEncode : Idle (asked .closed (.start .red 400 300 :: (rasterStream fun y _ => BitVec.ofNat 8 y).map .pixIn ++ [])) ∧
    (asked .closed (.start .red 400 300 :: (rasterStream fun y _ => BitVec.ofNat 8 y).map .pixIn ++ [])).inbox =
      .start .red 400 300 :: (rasterStream fun y _ => BitVec.ofNat 8 y).map .pixIn ++ [] := ⟨⟨rfl, rfl⟩, rfl⟩
/-- A stream at any place has the invariant: the first pixel, the last but one and the last. -/
theorem witness_ScanPositionAdvancesByOnePixel :
    (Inv Config.hw (streaming 0 0 0) ∧ scanIndex (streaming 0 0 0).enc + 1 < 120000) ∧
    (Inv Config.hw (streaming 299 49 6) ∧ scanIndex (streaming 299 49 6).enc + 1 = 119999) ∧
    (Inv Config.hw (streaming 299 49 7) ∧ scanIndex (streaming 299 49 7).enc + 1 = 120000) := by
  have h : ∀ row grp j, row < 300 → grp < 50 → j < 8 → Inv Config.hw (streaming row grp j) := fun row grp j h1 h2 h3 =>
    ⟨⟨rfl, rfl, rfl, rfl⟩, ⟨h1, h2, h3⟩, fun _ => Nat.two_pow_pos j, fun _ hp => (nomatch hp), fun hl => hl.elim nofun nofun,
      fun hl => hl.elim nofun nofun, rfl, rfl⟩
  exact ⟨⟨h 0 0 0 (by decide) (by decide) (by decide), by decide⟩, ⟨h 299 49 6 (by decide) (by decide) (by decide), rfl⟩,
    ⟨h 299 49 7 (by decide) (by decide) (by decide), rfl⟩⟩
theorem witness_EncodePlaneReturnsThePlane : Idle (inLife .constructed []) ∧ PanelSized sizedK := ⟨⟨rfl, rfl⟩, rfl, rfl⟩
theorem witness_EncodePlaneDependsOnSamplesOnly : Idle (inLife .constructed []) ∧ Idle (inLife .closed []) ∧ PanelSized sizedR ∧
    (∀ a, a < 120000 → readByte .rasterR (inLife .constructed []) a = readByte .rasterR (inLife .closed []) a) :=
  ⟨⟨rfl, rfl⟩, ⟨rfl, rfl⟩, ⟨rfl, rfl⟩, fun _ _ => rfl⟩
theorem witness_WrongSizeChangesNothing : Idle (inLife .sequenced []) ∧ ¬ PanelSized ⟨.black, 400, 299⟩ ∧ ¬ PanelSized ⟨.red, 401, 300⟩ ∧
    PanelSized sizedK ∧ Idle (asked .ready [.start .black 400 299]) ∧
    (asked .ready [.start .black 400 299]).inbox = [.start .black 400 299] ∧ ¬ ((400 : Nat) = 400 ∧ (299 : Nat) = 300) ∧
    (asked .closed [.start .red 401 300]).inbox = [.start .red 401 300] ∧ ¬ ((401 : Nat) = 400 ∧ (300 : Nat) = 300) :=
  ⟨⟨rfl, rfl⟩, nofun, nofun, ⟨rfl, rfl⟩, ⟨rfl, rfl⟩, rfl, nofun, rfl, nofun⟩
/-- For SendCommandByteWithDcLow, SendDataByteWithDcHigh and SendDataIsOneTransaction: an ideal platform, short and full writes, an
error of each; `idle_inLife` and `idle_answering` say that each state is idle and in the lifecycle value named. -/
theorem witness_primitives :
    (Idle (inLife .ready []) ∧ (inLife .ready []).seq.life ∈ [Life.ready, .resetDone, .sequenced] ∧ IdealCalls (inLife .ready [])) ∧
    (Idle (answering .sequenced [.ok] [.ok 0]) ∧ (answering .sequenced [.ok] [.ok 0]).seq.life ∈ [Life.ready, .resetDone, .sequenced] ∧
      (answering .sequenced [.ok] [.ok 0]).env.lineAnswers = .ok :: [] ∧ (answering .sequenced [.ok] [.ok 0]).env.spiAnswers = .ok 0 :: []) ∧
    (Idle (answering .resetDone [.ok] [.ok 50]) ∧ (answering .resetDone [.ok] [.ok 50]).seq.life ∈ [Life.ready, .resetDone, .sequenced] ∧
      (answering .resetDone [.ok] [.ok 50]).env.lineAnswers = .ok :: [] ∧ (answering .resetDone [.ok] [.ok 50]).env.spiAnswers = .ok 50 :: []) ∧
    (Idle (answering .ready [.ok] [.err 5]) ∧ (answering .ready [.ok] [.err 5]).seq.life ∈ [Life.ready, .resetDone, .sequenced] ∧
      (answering .ready [.ok] [.err 5]).env.lineAnswers = .ok :: [] ∧ (answering .ready [.ok] [.err 5]).env.spiAnswers = .err 5 :: []) ∧
    (Idle (answering .ready [.err 5] []) ∧ (answering .ready [.err 5] []).seq.life ∈ [Life.ready, .resetDone, .sequenced] ∧
      (answering .ready [.err 5] []).env.lineAnswers = .err 5 :: []) :=
  ⟨⟨⟨rfl, rfl⟩, by decide, ideal_inLife _ _⟩, ⟨⟨rfl, rfl⟩, by decide, rfl, rfl⟩, ⟨⟨rfl, rfl⟩, by decide, rfl, rfl⟩, ⟨⟨rfl, rfl⟩, by decide, rfl, rfl⟩,
    ⟨rfl, rfl⟩, by decide, rfl⟩
/-- For WaitBusyReturnsAtFirstReadySample, WaitBusyRaisesAtOnce and the first clause of BusyPanelKeepsTheOperationWaiting: none and two
busy samples before a ready one, a value outside 0 and 1, an error at once and after one sample, only busy ones. -/
theorem witness_WaitBusy :
    (∀ busy, Idle (inLife .ready busy) ∧ (inLife .ready busy).seq.life ∈ [Life.ready, .resetDone, .sequenced]) ∧
    (inLife .ready [.level 1]).env.busySamples = readyAfter 0 [] ∧
    (inLife .ready [.level 0, .level 0, .level 1, .level 0]).env.busySamples = readyAfter 2 [.level 0] ∧
    (inLife .ready [.level 2]).env.busySamples = busySamples 0 ++ .level 2 :: [] ∧
    (inLife .ready [.err 3]).env.busySamples = busySamples 0 ++ .err 3 :: [] ∧
    (inLife .ready [.level 0, .err 3]).env.busySamples = busySamples 1 ++ .err 3 :: [] ∧
    (inLife .ready []).env.busySamples = busySamples 0 ∧ (inLife .ready [.level 0, .level 0]).env.busySamples = busySamples 2 :=
  ⟨fun _ => ⟨⟨rfl, rfl⟩, List.mem_cons_self⟩, rfl, rfl, rfl, rfl, rfl, rfl, rfl⟩
/-- HOST waits with nothing in its queue, and with the wait for the return in it; `witness_drawn_polls` is for the free draw. -/
theorem witness_BusyPanelKeepsTheOperationWaiting :
    (waiting .close .ready [.level 0]).pending = some ⟨.close, 0⟩ ∧ PolledBusy (waiting .close .ready [.level 0]) 0 (platform []) ∧
    PolledBusy (waiting .close .ready [.level 0, .level 0]) 1 (platform []) ∧
    hostWaits (waiting .close .ready [.level 0]) = true ∧ hostWaits { waiting .close .ready [.level 0] with inbox := [.await] } = true :=
  ⟨rfl, .inl ⟨rfl, rfl⟩, .inl ⟨rfl, rfl⟩, rfl, rfl⟩
/-- One state for each clause: FIRST_SEQUENCE, CLOSE, PRINT_IMAGE, another operation; HOST waits in each. -/
theorem witness_WaitingOperationGoesOnWhenReady :
    (waiting .firstSequence .resetDone [.level 1]).pending = some ⟨.firstSequence, 0⟩ ∧ IdealCalls (waiting .firstSequence .resetDone [.level 1]) ∧
    Polled (waiting .firstSequence .resetDone [.level 1]) 0 (.level 1) (platform []) ∧
    (waiting .close .ready [.level 1]).pending = some ⟨.close, 0⟩ ∧ IdealCalls (waiting .close .ready [.level 1]) ∧
    Polled (waiting .close .ready [.level 1]) 0 (.level 1) (platform []) ∧
    Polled (waiting .printImage .sequenced [.level 0, .level 1]) 1 (.level 1) (platform []) ∧
    (waiting .powerOn .ready [.level 1]).pending = some ⟨.powerOn, 0⟩ ∧ (∀ op l busy, hostWaits (waiting op l busy) = true) :=
  ⟨rfl, ⟨rfl, rfl, rfl, rfl, rfl⟩, .inl ⟨[], rfl, rfl⟩, rfl, ⟨rfl, rfl, rfl, rfl, rfl⟩, .inl ⟨[], rfl, rfl⟩, .inl ⟨[], rfl, rfl⟩, rfl, fun _ _ _ => rfl⟩
/-- The poll that runs take, where no sample is listed: the draw is met in every such state, and what it reads falls under one
of BusyPanelKeepsTheOperationWaiting, WaitingOperationGoesOnWhenReady and the two clauses of WaitingOperationRaisesAtOnce. Which one
cannot be shown of any state, the draw having no value. -/
theorem witness_drawn_polls : ∀ op l,
    Polled (waiting op l []) 0 (waiting op l []).env.busyAnswer (waiting op l []).env.drawn ∧
    (PolledBusy (waiting op l []) 0 (waiting op l []).env.drawn ∨ (waiting op l []).env.busyAnswer = .level 1 ∨
      (∃ u, u ≠ 0 ∧ u ≠ 1 ∧ (waiting op l []).env.busyAnswer = .level u) ∨ ∃ x, (waiting op l []).env.busyAnswer = .err x) := by
  intro op l
  refine ⟨.inr ⟨rfl, rfl, rfl, rfl⟩, ?_⟩
  rcases h : (waiting op l []).env.busyAnswer with u | x
  · by_cases h0 : u = 0
    · exact .inl (.inr ⟨rfl, rfl, by rw [h, h0], rfl⟩)
    · by_cases h1 : u = 1
      · exact .inr (.inl (by rw [h1]))
      · exact .inr (.inr (.inl ⟨u, h0, h1, rfl⟩))
  · exact .inr (.inr (.inr ⟨x, rfl⟩))
/-- A sample outside 0 and 1 after a busy one, and an error of the platform before any event. -/
theorem witness_WaitingOperationRaisesAtOnce :
    Polled (waiting .printImage .sequenced [.level 0, .level 2]) 1 (.level 2) (platform []) ∧
    Polled (waiting .waitBusy .ready [.err 3]) 0 (.err 3) (platform []) ∧ (waiting .waitBusy .ready [.err 3]).pending = some ⟨.waitBusy, 0⟩ ∧
    hostWaits (waiting .printImage .sequenced [.level 0, .level 2]) = true ∧ hostWaits (waiting .waitBusy .ready [.err 3]) = true :=
  ⟨.inl ⟨[], rfl, rfl⟩, .inl ⟨[], rfl, rfl⟩, rfl, rfl, rfl⟩
/-- Vector V56's samples met by the later polls of CLOSE: the error ends it, nothing more is sent. -/
theorem test_later_poll_raises : (after (step (waiting .close .sequenced [.level 0, .level 2])) State.reset).seq = ⟨.unknown, .unknown, .ready, some .unexpectedSignal⟩ ∧
    (after (step (waiting .close .sequenced [.level 0, .level 2])) State.reset).hist = [.busy 0, .sleep 200, .busy 2] := by decide
/-- For CommandsWithParameters, CommandsFollowedByWait, DataCommandsSendOnePlane, InitialiseAcquiresEverything, FirstSequenceInExactOrder,
NothingIsSentBeforePowerOnWaitEnds, ClearDisplaySendsTwoWhitePlanes, PrintTricolorSendsTheStripes, PrintImageSendsTheEncodedPlanes,
CloseInExactOrder and SizesOfTheSequences: an idle state on the ideal platform in each lifecycle value, with busy samples. -/
theorem witness_sequences : ∀ l : Life, Idle (inLife l [.level 1]) ∧ IdealCalls (inLife l [.level 1]) ∧ (inLife l [.level 1]).seq.life = l ∧
    (inLife l [.level 1]).env.busySamples = readyAfter 0 [] ∧ (inLife l []).env.busySamples = busySamples 0 ∧
    PanelSized sizedK ∧ PanelSized sizedR ∧ ¬ PanelSized ⟨.red, 0, 0⟩ :=
  fun _ => ⟨⟨rfl, rfl⟩, ideal_inLife _ _, rfl, rfl, rfl, ⟨rfl, rfl⟩, ⟨rfl, rfl⟩, nofun⟩
/-- The first and the last export, the first and the last direction-set, and the SPI configuration fail. -/
theorem witness_InitialiseFailureLeavesUnusable :
    (acquiring [false] []).env.acquireAnswers = List.replicate 0 true ++ false :: [] ∧
    (acquiring [true, true, false] []).env.acquireAnswers = List.replicate 2 true ++ false :: [] ∧
    (acquiring [true, true, true] [.err 1]).env.directionAnswers = List.replicate 0 .ok ++ .err 1 :: [] ∧
    (acquiring [true, true, true] [.ok, .ok, .err 1]).env.directionAnswers = List.replicate 2 .ok ++ .err 1 :: [] ∧
    (acquiring [true, true, true, false] [.ok, .ok, .ok]).env.acquireAnswers = true :: true :: true :: false :: [] ∧
    (acquiring [true, true, true, false] [.ok, .ok, .ok]).env.directionAnswers = .ok :: .ok :: .ok :: [] ∧
    (∀ acq dirs, Idle (acquiring acq dirs) ∧ (acquiring acq dirs).seq.life = .constructed) := ⟨rfl, rfl, rfl, rfl, rfl, rfl, idle_acquiring⟩
theorem witness_ResetGivesThePulse :
    (answering .ready [.ok, .ok, .ok] []).env.lineAnswers = .ok :: .ok :: .ok :: [] ∧
    (answering .sequenced [.err 1] []).env.lineAnswers = List.replicate 0 .ok ++ .err 1 :: [] ∧
    (answering .ready [.ok, .err 1] []).env.lineAnswers = List.replicate 1 .ok ++ .err 1 :: [] ∧
    (answering .ready [.ok, .ok, .err 1] []).env.lineAnswers = List.replicate 2 .ok ++ .err 1 :: [] ∧
    (inLife .resetDone []).seq.life ∈ [Life.ready, .resetDone, .sequenced] ∧ IdealCalls (inLife .resetDone []) ∧ Idle (inLife .resetDone []) ∧
    (∀ l lines spi, Idle (answering l lines spi) ∧ (answering l lines spi).seq.life = l) :=
  ⟨rfl, rfl, rfl, rfl, by decide, ideal_inLife _ _, ⟨rfl, rfl⟩, idle_answering⟩
theorem witness_PrintImageStoresThePlanes : Idle (inLife .sequenced []) ∧ (inLife .sequenced []).seq.life = .sequenced ∧ IdealCalls (inLife .sequenced []) ∧
    (inLife .sequenced []).env.busySamples = busySamples 0 ∧ PanelSized sizedK ∧ PanelSized sizedR ∧
    (299 : Nat) < 300 ∧ (49 : Nat) < 50 ∧ 15000 ≤ (15000 : Nat) :=
  ⟨⟨rfl, rfl⟩, rfl, ideal_inLife _ _, rfl, ⟨rfl, rfl⟩, ⟨rfl, rfl⟩, by decide, by decide, by decide⟩
/-- An idle state in each lifecycle value in which a write falls short; it admits each of the operations in one of them. -/
theorem witness_ShortWritesNeverStopASequence : (∀ l : Life, ∃ s : State, Idle s ∧ s.seq.life = l ∧ s.env.ideal = true ∧
      s.env.lineAnswers = [] ∧ (∀ a ∈ s.env.spiAnswers, ∃ n, a = .ok n) ∧ s.env.spiAnswers.length = 2 ∧ s.env.busySamples = readyAfter 0 []) ∧
    PanelSized sizedK ∧ PanelSized sizedR ∧ Life.resetDone ∈ admittedIn .firstSequence ∧ Life.sequenced ∈ admittedIn .clearDisplay ∧
    Life.sequenced ∈ admittedIn .printTricolor ∧ Life.sequenced ∈ admittedIn (.printImage sizedK (some sizedR)) ∧ Life.ready ∈ admittedIn .close :=
  ⟨fun l => ⟨{ inLife l [] with env := { platform [.level 1] with spiAnswers := [.ok 0, .ok 3] } }, ⟨rfl, rfl⟩, rfl, rfl, rfl, by simp, rfl, rfl⟩,
    ⟨rfl, rfl⟩, ⟨rfl, rfl⟩, by decide, by decide, by decide, by decide, by decide⟩
/-- One state for each clause: a wrong lifecycle value, reserved codes, a second START, a sample offered to an idle ENC, a call while an
operation stands in its WAIT_BUSY and a raster during a stream. -/
theorem witness_RefusalChangesNothing :
    ¬ (Idle (inLife .ready []) ∧ (inLife .ready []).seq.life ∈ admittedIn .clearDisplay) ∧
    (asked .ready [.call (.hostOp 0xC .empty)]).inbox = [.call (.hostOp 0xC .empty)] ∧ 12 ≤ (0xC : BitVec 4).toNat ∧ 12 ≤ (0xF : BitVec 4).toNat ∧
    ({ streaming 0 0 0 with inbox := [.start .red 400 300] } : State).enc.active = true ∧
    (asked .ready [.pixIn 5]).enc.active = false ∧
    ¬ Idle { waiting .close .ready [] with inbox := [.call (encode .reset)] } ∧ ¬ Idle { streaming 0 0 0 with inbox := [.supply .red [1]] } :=
  ⟨fun h => absurd h.2 (by decide), rfl, by decide, by decide, rfl, rfl, fun h => (nomatch h.1), fun h => (nomatch h.2)⟩
/-- For AdmittedOperationIsNotRefused and LifecycleAfterAnOperation. -/
theorem witness_admission : Idle (inLife .sequenced []) ∧ (inLife .sequenced []).seq.life ∈ admittedIn .clearDisplay ∧
    (inLife .constructed []).seq.life ∈ admittedIn .initialise := ⟨⟨rfl, rfl⟩, by decide, by decide⟩
theorem witness_LifecycleAfterAWait : (waiting .firstSequence .resetDone []).pending = some ⟨.firstSequence, 0⟩ := rfl
/-- A step that returns the first error. -/
theorem witness_ErrorRecordIsSticky : ∃ t, step (asked .ready [.start .black 0 0]) = .next t ∧ (asked .ready [.start .black 0 0]).seq.err = none ∧
    t.returns.drop 0 = [.error (.sizeMismatch 0 0)] := ⟨_, rfl, rfl, rfl⟩
/-- An instruction that raises, and a later poll that does. -/
theorem witness_RaisingEventIsTheLast : (∃ t, exec .waitBusy (inLife .ready [.level 7]) = .next t ∧
      t.hist = (inLife .ready [.level 7]).hist ++ [] ++ .busy 7 :: []) ∧
    (∃ t, step (waiting .powerOn .ready [.level 7]) = .next t ∧
      t.hist = (waiting .powerOn .ready [.level 7]).hist ++ [] ++ .busy 7 :: []) ∧ Event.raises (.busy 7) = true :=
  ⟨⟨_, rfl, rfl⟩, ⟨_, rfl, rfl⟩, rfl⟩
theorem witness_NothingIsSentAfterClose : ∃ t, (inLife .closed []).seq.life = .closed ∧ (inLife .closed []).pending = none ∧
    step (asked .closed [.call (encode .reset)]) = .next t := ⟨_, rfl, rfl, rfl⟩
theorem witness_NothingIsDrivenWithoutTheResources : (inLife .constructed []).seq.life = .constructed ∧ (inLife .unusable []).seq.life = .unusable ∧
    ∃ t, exec .initialise (inLife .constructed []) = .next t := ⟨rfl, rfl, _, rfl⟩
/-- For HistoriesOnlyGrow, DcLineIsWrittenBeforeEveryTransaction and RastersChangeOnlyByHost: a step, from a framed history, that takes no
raster. -/
theorem witness_steps : ∃ t, step (asked .ready [.call (encode (.sendDataByte 1))]) = .next t ∧
    dcFramed false (asked .ready [.call (encode (.sendDataByte 1))]).hist = true ∧
    ∀ col bs, (asked .ready [.call (encode (.sendDataByte 1))]).inbox.head? ≠ some (.supply col bs) := ⟨_, rfl, rfl, nofun⟩
theorem witness_FrameOfTheSequencer : usesEnc .reset = false ∧ ∃ t, exec .reset (inLife .ready []) = .next t := ⟨rfl, _, rfl⟩
theorem witness_FrameOfTheEncoder : usesEnc (.encodePlane sizedK) = true ∧ usesEnc (.dataBlack (.encoded sizedK)) = true ∧
    ∃ t, exec (.encodePlane ⟨.red, 0, 0⟩) (inLife .ready []) = .next t := ⟨rfl, rfl, _, rfl⟩
theorem witness_HostSuppliesRastersBetweenOperations : Idle (asked .ready [.supply .red [1, 2]]) ∧
    (asked .ready [.supply .red [1, 2]]).inbox = [.supply .red [1, 2]] ∧ ([1, 2] : List Byte)[1]? = some 2 ∧
    ([1, 2] : List Byte).length ≤ 2 ∧ hostWaits (waiting .waitBusy .ready [.level 0]) = true ∧
    ∃ t, (waiting .waitBusy .ready [.level 0]).pending = some ⟨.waitBusy, 0⟩ ∧ step (waiting .waitBusy .ready [.level 0]) = .next t :=
  ⟨⟨rfl, rfl⟩, rfl, rfl, by decide, rfl, _, rfl, rfl⟩
theorem witness_ReportedLevelsAndErrorAreNeverRead : (∃ i, exec .close = exec i) ∨ exec .close = step := .inl ⟨_, rfl⟩
theorem witness_DecodeOfEncodeIsTheInstruction : Instr.wellFormed (.printImage sizedK (some sizedR)) = true ∧
    Instr.wellFormed (.dataRed (.stripe 300)) = true := by decide
theorem witness_EncodeOfDecodeIsTheCall : decode (.hostOp 0x9 ⟨[], [sizedK], none⟩) = .ok (.printImage sizedK none) := rfl
theorem witness_ReservedCodesAreRejected : 12 ≤ (0xC : BitVec 4).toNat ∧ 12 ≤ (0xF : BitVec 4).toNat ∧
    (0x01 : Byte) ∉ [(0x00 : Byte), 0x02, 0x04, 0x06, 0x07, 0x10, 0x12, 0x13] := by decide
theorem witness_StepRunsTheDecodedInstruction : (asked .ready [.call (.hostOp 0x1 .empty)]).inbox = [.call (.hostOp 0x1 .empty)] ∧
    decode (.hostOp 0x1 .empty) = .ok .reset ∧ decodeTableWord 8 0x01 = some .reset := ⟨rfl, rfl, rfl⟩
theorem witness_EveryStepKeepsTheInvariant : Inv Config.hw State.reset ∧ ∃ t, step State.reset = .next t :=
  ⟨⟨⟨rfl, rfl, rfl, rfl⟩, ⟨by decide, by decide, by decide⟩, fun h => (nomatch h), fun _ h => (nomatch h), fun h => h.elim nofun nofun,
    fun _ => ⟨rfl, rfl, rfl⟩, rfl, rfl⟩, _, rfl⟩
/-- A step on the ideal platform that returns an error of another kind. -/
theorem witness_IdealPlatformNeverRaisesTransport : IdealPlatform (waiting .close .ready [.level 0, .level 3]) ∧
    ∃ t, step (waiting .close .ready [.level 0, .level 3]) = .next t ∧ t.returns = [.error (.unexpectedSignal 3)] :=
  ⟨⟨⟨rfl, rfl, rfl, rfl, rfl⟩, fun e h => by simp [waiting, inLife, platform] at h⟩, _, rfl, rfl⟩

end Sys2Proof.Tests
end

section
/-! PROOFS. Relations between a state and a later one that no shared step of SEQ breaks, and so no instruction: what an
instruction leaves unchanged is proved once of the shared steps (10_state.md). -/
namespace Sys2Proof.Machine

/-- A relation between a state and a later one that composes and holds across every shared step of SEQ: its transmission
steps, the return of a result, a lifecycle transition, the error record, going on in WAIT_BUSY, and refusal. -/
structure Stable (P : State → State → Prop) : Prop where
  trans : ∀ {s t u}, P s t → P t u → P s u
  wire : ∀ {s t}, Wire s t → P s t
  giveBack : ∀ r s, P s (giveBack r s)
  setLife : ∀ l s, P s (setLife l s)
  noteError : ∀ e s, P s (noteError e s)
  keepWaiting : ∀ p s, P s (keepWaiting p s)
  refuse : ∀ s, P s (refuse s)

/-- An event that may follow anything, with an answer of the platform. -/
theorem emit_setEnv_wire {e : Event} (he : Block [e]) (v : Env) (s : State) : Wire s (setEnv v (emit e s)) :=
  ⟨rfl, rfl, rfl, rfl, rfl, rfl, rfl, rfl, rfl, rfl, rfl, rfl, rfl, rfl, [e], rfl, he⟩

theorem exportLine_wire (l : Line) (s : State) : Wire s (exportLine l s).final := by
  simp only [exportLine]
  split <;> exact emit_setEnv_wire (fun _ => rfl) _ s

theorem setDirection_wire (l : Line) (d : Direction) (s : State) : Wire s (setDirection l d s).final := by
  simp only [setDirection]
  split <;> exact emit_setEnv_wire (fun _ => rfl) _ s

theorem configureSpi_wire (c : Config) (s : State) : Wire s (configureSpi c s).final := by
  simp only [configureSpi]
  split <;> exact emit_setEnv_wire (fun _ => rfl) _ s

/-- A relation that composes holds across a sequence of steps if it does across each. -/
theorem Run.andThen_keeps {P : State → State → Prop} (htrans : ∀ {s t u}, P s t → P t u → P s u) {s : State} {r : Run}
    {f : State → Run} (h : P s r.final) (hf : ∀ t, P t (f t).final) : P s (r.andThen f).final := by
  cases r with
  | ok t => exact htrans h (hf t)
  | raised e t => exact h

/-- The pulse of RESET (R134): what composes and holds across each hold of the line holds across the pulse. -/
theorem resetPulse_keeps {P : State → State → Prop} (htrans : ∀ {s t u}, P s t → P t u → P s u)
    (hold : ∀ c lv s, P s (holdRst c lv s).final) (c : Config) (s : State) : P s (resetPulse c s).final :=
  Run.andThen_keeps (P := P) htrans (Run.andThen_keeps (P := P) htrans (hold c .high s) (hold c .low)) (hold c .high)

/-- The seven steps of INITIALIZE (R133): what composes and holds across each holds across all. -/
theorem acquireAll_keeps {P : State → State → Prop} (htrans : ∀ {s t u}, P s t → P t u → P s u)
    (hexport : ∀ l s, P s (exportLine l s).final) (hdir : ∀ l d s, P s (setDirection l d s).final)
    (hspi : ∀ c s, P s (configureSpi c s).final) (c : Config) (s : State) : P s (acquireAll c s).final := by
  have next {r : Run} {f : State → Run} (h : P s r.final) (hf : ∀ t, P t (f t).final) :=
    Run.andThen_keeps (P := P) htrans h hf
  exact next (next (next (next (next (next (hexport _ s) (hexport _)) (hexport _)) (hdir _ _)) (hdir _ _)) (hdir _ _)) (hspi c)

theorem acquireAll_wire (c : Config) (s : State) : Wire s (acquireAll c s).final :=
  acquireAll_keeps (P := Wire) Wire.trans exportLine_wire setDirection_wire configureSpi_wire c s

/-- A relation that holds across ENC's part of an operation: one whole encode, and the loss of a plane afterwards (R59). -/
def KeptByEncodes (c : Config) (P : State → State → Prop) : Prop :=
  (∀ src dst s, P s (encodeInto c src dst s)) ∧ ∀ col s, P s (discardPlane col s)

namespace Stable
variable {P : State → State → Prop} (hP : Stable P) {s t : State}
include hP

theorem refl (s : State) : P s s := hP.wire (Wire.refl s)

theorem abortTo (l : Life) (e : Error) (h : P s t) : P s (abortTo l e t) :=
  hP.trans h (hP.trans (hP.noteError e t) (hP.trans (hP.setLife l _) (hP.giveBack _ _)))

theorem abort (start : Nat) (e : Error) (h : P s t) : P s (abort start e t) := hP.abortTo _ e h

theorem settle {start : Nat} {f : State → State} (hf : ∀ s, P s (f s)) {r : Run} (h : P s r.final) : P s (settle start f r) := by
  cases r with
  | ok t => exact hP.trans h (hP.trans (hf t) (hP.giveBack _ _))
  | raised e t => exact hP.abort start e h

theorem primitive {f : State → Run} (h : P s (f s).final) : P s (primitive f s) := hP.settle hP.refl h

theorem discardFor {c : Config} (henc : KeptByEncodes c P) (op : Waiting) (s : State) : P s (discardFor op s) := by
  cases op
  case printImage => exact hP.trans (henc.2 .black s) (henc.2 .red _)
  all_goals exact hP.refl s

theorem conclude (c : Config) (p : Pending) (hd : ∀ s, P s (Machine.discardFor p.op s)) (s : State) :
    P s (conclude c p s) := by
  obtain ⟨op, start⟩ := p
  cases op
  case firstSequence => exact hP.settle (hP.setLife _) (hP.wire (sendCommand_wire c _ _ s))
  case close => exact hP.settle (hP.setLife _) (hP.wire (sendCommand_wire c _ _ s))
  case printImage => exact hP.trans (hd s) (hP.giveBack _ _)
  all_goals exact hP.giveBack _ s

theorem settlePoll (c : Config) (p : Pending) (hd : ∀ s, P s (Machine.discardFor p.op s)) {r : Poll}
    (h : P s r.final) : P s (settlePoll c p r) := by
  cases r with
  | ready t => exact hP.trans h (hP.conclude c p hd t)
  | again t => exact hP.trans h (hP.keepWaiting p t)
  | raised e t => exact hP.abort _ e (hP.trans h (hd t))

theorem enterWait (c : Config) (p : Pending) (hd : ∀ s, P s (Machine.discardFor p.op s)) (s : State) :
    P s (enterWait c p s) :=
  hP.settlePoll c p hd (hP.wire (pollAll_wire c _ s))

theorem resumeWait (c : Config) (p : Pending) (hd : ∀ s, P s (Machine.discardFor p.op s)) (s : State) :
    P s (resumeWait c p s) := by
  unfold Machine.resumeWait
  split
  · exact hP.settlePoll c p hd (hP.wire ((setEnv_wire _ s).trans (judge_wire c _ _)))
  · exact hP.enterWait c p hd s

theorem thenWait (c : Config) (p : Pending) (hd : ∀ s, P s (Machine.discardFor p.op s)) {r : Run}
    (h : P s r.final) : P s (thenWait c p r) := by
  cases r with
  | ok t => exact hP.trans h (hP.enterWait c p hd t)
  | raised e t => exact hP.abort _ e (hP.trans h (hd t))

theorem initialiseLines (c : Config) (s : State) : P s (initialiseLines c s) := by
  have h := hP.wire (acquireAll_wire c s)
  unfold Machine.initialiseLines
  cases hr : acquireAll c s with
  | ok t => rw [hr] at h; exact hP.trans h (hP.trans (hP.setLife _ t) (hP.giveBack _ _))
  | raised e t => rw [hr] at h; exact hP.abortTo _ e h

theorem sendSource (c : Config) (code : Byte) (dst : Colour) (p : PlaneSource)
    (henc : (∃ r, p = .encoded r) → KeptByEncodes c P) (s : State) : P s (sendSource c code dst p s) := by
  cases p with
  | white => exact hP.primitive (hP.wire (sendPlane_wire c code _ s))
  | stripe n => exact hP.primitive (hP.wire (sendPlane_wire c code _ s))
  | encoded r =>
    obtain ⟨hencode, hdiscard⟩ := henc ⟨r, rfl⟩
    simp only [Machine.sendSource, sendEncoded]
    split
    · exact hP.abort _ _ (hP.refl s)
    · exact hP.trans (hP.settle hP.refl (hP.trans (hencode r.space dst s) (hP.wire (sendPlane_wire c code _ _)))) (hdiscard dst _)

theorem printImage (c : Config) (r : RasterArg) (red : Option RasterArg) (henc : KeptByEncodes c P) (s : State) :
    P s (printImage c r red s) := by
  have hred (t : State) : P t (encodeRed c red t) := by
    cases red with
    | none => exact hP.refl t
    | some q => exact henc.1 q.space .red t
  unfold Machine.printImage
  split
  · exact hP.abort _ _ (hP.refl s)
  split
  · exact hP.abort _ _ (hP.refl s)
  · exact hP.thenWait c _ (hP.discardFor henc .printImage)
      (hP.trans (hP.trans (henc.1 r.space .black s) (hred _)) (hP.wire (sendFrame_wire c _ _ _)))

theorem encodePlane (c : Config) (r : RasterArg) (henc : KeptByEncodes c P) (s : State) : P s (encodePlane c r s) := by
  obtain ⟨hencode, hdiscard⟩ := henc
  unfold Machine.encodePlane
  split
  · exact hP.abort _ _ (hP.refl s)
  · exact hP.trans (hencode r.space r.space s) (hP.trans (hdiscard r.space _) (hP.giveBack _ _))

/-- What every admitted instruction keeps; the encodes and the pulse of RESET count only where the instruction has them. -/
theorem meaning (i : Instr) (henc : usesEnc i = true → KeptByEncodes Config.hw P)
    (hpulse : i = .reset → ∀ s, P s (resetPulse Config.hw s).final) (s : State) : P s (meaning i s) := by
  cases i
  case panelSetting => exact hP.primitive (hP.wire (sendCommand_wire _ _ _ s))
  case powerOff => exact hP.thenWait _ ⟨.powerOff, _⟩ hP.refl (hP.wire (sendByte_wire _ _ s))
  case powerOn => exact hP.thenWait _ ⟨.powerOn, _⟩ hP.refl (hP.wire (sendByte_wire _ _ s))
  case boosterSoftStart => exact hP.primitive (hP.wire (sendCommand_wire _ _ _ s))
  case deepSleep => exact hP.primitive (hP.wire (sendCommand_wire _ _ _ s))
  case dataBlack p => exact hP.sendSource _ _ _ p (by rintro ⟨r, rfl⟩; exact henc rfl) s
  case displayRefresh => exact hP.thenWait _ ⟨.displayRefresh, _⟩ hP.refl (hP.wire (sendByte_wire _ _ s))
  case dataRed p => exact hP.sendSource _ _ _ p (by rintro ⟨r, rfl⟩; exact henc rfl) s
  case initialise => exact hP.initialiseLines _ s
  case reset => exact hP.settle (hP.setLife _) (hpulse rfl s)
  case sendCommandByte b => exact hP.primitive (hP.wire (sendByte_wire _ b s))
  case sendDataByte b => exact hP.primitive (hP.wire (sendByte_wire _ b s))
  case sendData bs => exact hP.primitive (hP.wire (sendData_wire _ bs s))
  case waitBusy => exact hP.enterWait _ ⟨.waitBusy, _⟩ hP.refl s
  case firstSequence =>
    exact hP.thenWait _ ⟨.firstSequence, _⟩ hP.refl (hP.wire ((sendCommand_wire _ _ _ s).andThen fun t => sendByte_wire _ _ t))
  case clearDisplay => exact hP.thenWait _ ⟨.clearDisplay, _⟩ hP.refl (hP.wire (sendFrame_wire _ _ _ s))
  case printTricolor => exact hP.thenWait _ ⟨.printTricolor, _⟩ hP.refl (hP.wire (sendFrame_wire _ _ _ s))
  case printImage r red => exact hP.printImage _ r red (henc rfl) s
  case close => exact hP.thenWait _ ⟨.close, _⟩ hP.refl (hP.wire (sendByte_wire _ _ s))
  case encodePlane r => exact hP.encodePlane _ r (henc rfl) s

/-- What every instruction keeps, admitted or refused. -/
theorem exec (i : Instr) (henc : usesEnc i = true → KeptByEncodes Config.hw P)
    (hpulse : i = .reset → ∀ s, P s (resetPulse Config.hw s).final) (h : exec i s = .next t) : P s t := by
  rw [exec_eq_operation, operation] at h
  split at h <;> cases h
  · exact hP.meaning i henc hpulse s
  · exact hP.refuse s

end Stable

end Sys2Proof.Machine
end

section
/-! PROOFS. What one sample does to the scan position (R21, R22, R102 to R104), and what ENC's work leaves alone. -/
namespace Sys2Proof.Machine

/-! ## The three outcomes of ADVANCE (R103) and of PIXEL (R102) -/

theorem encAdvance_enc_of_group {c : Config} {s : State} (hg : s.enc.grp < c.bytesPerRow - 1) :
    (encAdvance c s).enc = { s.enc with acc := 0, j := 0, grp := s.enc.grp + 1 } := by
  simp [encAdvance, hg]

theorem encAdvance_enc_of_row {c : Config} {s : State} (hg : ¬ s.enc.grp < c.bytesPerRow - 1) (hr : s.enc.row < c.height - 1) :
    (encAdvance c s).enc = { s.enc with acc := 0, j := 0, grp := 0, row := s.enc.row + 1 } := by
  simp [encAdvance, hg, hr]

/-- The last group of the last row: FINISH (R104). -/
theorem encAdvance_enc_of_end {c : Config} {s : State} (hg : ¬ s.enc.grp < c.bytesPerRow - 1) (hr : ¬ s.enc.row < c.height - 1) :
    ∃ k, (encAdvance c s).enc = idleEnc c k s.enc.plane := by
  exact ⟨(encEmit c s).fresh, by simp [encAdvance, hg, hr, encFinish]⟩

theorem encPixel_of_idle (c : Config) (px : Byte) {s : State} (ha : s.enc.active = false) : encPixel c px s = refuse s := by
  simp [encPixel, ha]

theorem encPixel_of_group {c : Config} {px : Byte} {s : State} (ha : s.enc.active = true) (hj : s.enc.j < c.group - 1) :
    encPixel c px s = setEnc { s.enc with acc := shiftIn c s.enc.acc px, j := s.enc.j + 1 } s := by
  simp [encPixel, ha, hj]

theorem encPixel_of_eighth {c : Config} {px : Byte} {s : State} (ha : s.enc.active = true) (hj : ¬ s.enc.j < c.group - 1) :
    encPixel c px s = encAdvance c (setEnc { s.enc with acc := shiftIn c s.enc.acc px } s) := by
  simp [encPixel, ha, hj]

/-! ## What ENC's work leaves alone -/

/-- Every address space has its canonical form. -/
def Canonical (s : State) : Prop := ∀ sp, Memory.wf (memOf sp s) = true

theorem canonical_iff {s : State} : Canonical s ↔
    Memory.wf s.rasterK = true ∧ Memory.wf s.rasterR = true ∧ Memory.wf s.planeK = true ∧ Memory.wf s.planeR = true := by
  refine ⟨fun h => ⟨h .rasterK, h .rasterR, h .planeK, h .planeR⟩, fun ⟨hk, hr, pk, pr⟩ sp => ?_⟩
  cases sp <;> assumption

theorem Canonical.setMem {s : State} (h : Canonical s) (sp : Space) {m : Memory} (hm : Memory.wf m = true) : Canonical (setMem sp m s) := by
  intro sq
  by_cases he : sq = sp
  · rw [he, memOf_setMem_same]; exact hm
  · rw [memOf_setMem_other _ _ _ _ he]; exact h sq

/-- The steps of ENC's stream change neither SEQ nor the wire history, the results or a raster, and keep the canonical form. -/
structure EncWork (s t : State) : Prop where
  seq : t.seq = s.seq
  hist : t.hist = s.hist
  returns : t.returns = s.returns
  rasterK : t.rasterK = s.rasterK
  rasterR : t.rasterR = s.rasterR
  canonical : Canonical s → Canonical t

theorem EncWork.trans {s t u : State} (h : EncWork s t) (h' : EncWork t u) : EncWork s u :=
  ⟨h'.seq.trans h.seq, h'.hist.trans h.hist, h'.returns.trans h.returns, h'.rasterK.trans h.rasterK, h'.rasterR.trans h.rasterR,
    fun hs => h'.canonical (h.canonical hs)⟩

theorem setEnc_work (e : Enc) (s : State) : EncWork s (setEnc e s) := ⟨rfl, rfl, rfl, rfl, rfl, fun h => h⟩

theorem encEmit_work (c : Config) (s : State) : EncWork s (encEmit c s) :=
  ⟨by simp [encEmit], by simp [encEmit], by simp [encEmit], by simp [encEmit], by simp [encEmit],
    fun h => h.setMem _ (Memory.wf_write _ _ _ (h _))⟩

theorem encFinish_work (c : Config) (s : State) : EncWork s (encFinish c s) := ⟨rfl, rfl, rfl, rfl, rfl, fun h => h⟩

theorem encAdvance_work (c : Config) (s : State) : EncWork s (encAdvance c s) := by
  have hemit (e : Enc) := (encEmit_work c s).trans (setEnc_work e _)
  unfold encAdvance
  split
  · exact hemit _
  split
  · exact hemit _
  · exact (hemit _).trans (encFinish_work c _)

theorem encPixel_work (c : Config) (px : Byte) (s : State) : EncWork s (encPixel c px s) := by
  cases ha : s.enc.active with
  | false => rw [encPixel_of_idle c px ha]; exact ⟨rfl, rfl, rfl, rfl, rfl, fun h => h⟩
  | true =>
    by_cases hj : s.enc.j < c.group - 1
    · rw [encPixel_of_group ha hj]; exact setEnc_work _ s
    · rw [encPixel_of_eighth ha hj]; exact (setEnc_work _ s).trans (encAdvance_work c _)

/-! ## The scan position -/

/-- A scan position in its ranges (R22). -/
def Placed (c : Config) (e : Enc) : Prop := e.row < c.height ∧ e.grp < c.bytesPerRow ∧ e.j < c.group

/-- The position of a stream of the block, with the accumulator holding no more than the pixels of its group (R22, R23). -/
structure Scanning (e : Enc) : Prop where
  active : e.active = true
  row : e.row < 300
  grp : e.grp < 50
  j : e.j < 8
  acc : e.acc.toNat < 2 ^ e.j

theorem Scanning.placed {e : Enc} (h : Scanning e) : Placed Config.hw e := ⟨h.row, h.grp, h.j⟩

theorem Scanning.scanIndex_lt {e : Enc} (h : Scanning e) : scanIndex e < 120000 := by
  have := h.row; have := h.grp; have := h.j
  unfold scanIndex; omega

theorem idleEnc_placed {c : Config} (hc : Fits c) (k : Nat) (col : Colour) : Placed c (idleEnc c k col) :=
  ⟨Nat.mod_lt _ hc.h, Nat.mod_lt _ hc.b, Nat.mod_lt _ (by rw [hc.g]; decide)⟩

/-- A state with the invariant in which ENC is active. -/
theorem Inv.scanning {s : State} (h : Inv Config.hw s) (ha : s.enc.active = true) : Scanning s.enc := by
  obtain ⟨hrow, hgrp, hj⟩ := h.position
  exact ⟨ha, hrow, hgrp, hj, h.accumulator ha⟩

/-- ADVANCE moves a completed group on to the next one, of the same row or of the next row, and finishes after the last (R103, R104). -/
theorem encAdvance_moves {s : State} (ha : s.enc.active = true) (hrow : s.enc.row < 300) (hgrp : s.enc.grp < 50) :
    (Scanning (encAdvance Config.hw s).enc ∧ scanIndex (encAdvance Config.hw s).enc = (s.enc.row * 50 + s.enc.grp + 1) * 8) ∨
    (∃ k, (encAdvance Config.hw s).enc = idleEnc Config.hw k s.enc.plane) ∧ s.enc.row = 299 ∧ s.enc.grp = 49 := by
  by_cases hg : s.enc.grp < 49
  · rw [encAdvance_enc_of_group hg]
    exact .inl ⟨⟨ha, hrow, Nat.succ_lt_succ hg, Nat.zero_lt_succ 7, Nat.one_pos⟩, by simp [scanIndex, Nat.add_assoc]⟩
  by_cases hr : s.enc.row < 299
  · rw [encAdvance_enc_of_row hg hr]
    exact .inl ⟨⟨ha, Nat.succ_lt_succ hr, Nat.zero_lt_succ 49, Nat.zero_lt_succ 7, Nat.one_pos⟩, by simp only [scanIndex]; omega⟩
  · exact .inr ⟨encAdvance_enc_of_end hg hr, by omega, by omega⟩

/-- An accepted sample moves the position on by one pixel; the last one leaves ENC idle (R102 to R104). -/
theorem encPixel_moves (px : Byte) {s : State} (h : Scanning s.enc) :
    (Scanning (encPixel Config.hw px s).enc ∧ scanIndex (encPixel Config.hw px s).enc = scanIndex s.enc + 1) ∨
    (∃ k, (encPixel Config.hw px s).enc = idleEnc Config.hw k s.enc.plane) ∧ scanIndex s.enc + 1 = 120000 := by
  obtain ⟨ha, hrow, hgrp, hj, hacc⟩ := h
  by_cases h7 : s.enc.j < 7
  · rw [encPixel_of_group (c := Config.hw) ha h7]
    exact .inl ⟨⟨ha, hrow, hgrp, Nat.succ_lt_succ h7, shiftIn_lt _ _ px _ hj hacc⟩, rfl⟩
  · rw [encPixel_of_eighth (c := Config.hw) ha h7]
    rcases encAdvance_moves (s := setEnc { s.enc with acc := shiftIn Config.hw s.enc.acc px } s) ha hrow hgrp with
      ⟨hscan, hindex⟩ | ⟨hidle, hlast, hend⟩
    · refine .inl ⟨hscan, ?_⟩
      rw [hindex]; simp only [setEnc_enc, scanIndex]; omega
    · refine .inr ⟨hidle, ?_⟩
      simp only [setEnc_enc] at hlast hend
      simp only [scanIndex]; omega

/-- Settles O10: START by its definition, a sample by `encPixel_moves`. -/
theorem scanPositionAdvancesByOnePixel : Obligations.ScanPositionAdvancesByOnePixel := by
  unfold Obligations.ScanPositionAdvancesByOnePixel
  refine ⟨fun col s hidle => ?_, fun px s hinv ha => ?_⟩
  · obtain ⟨hpending, hactive⟩ := hidle
    simp [encStart, inProgress, hpending, hactive, validate, hw_width, hw_height, scanIndex]
  · have hscan := hinv.scanning ha
    rcases encPixel_moves px hscan with ⟨hnext, hindex⟩ | ⟨⟨k, hidle⟩, hlast⟩
    · have := hnext.scanIndex_lt
      exact ⟨fun _ => ⟨hnext.active, hindex⟩, fun _ => by omega, hscan.scanIndex_lt⟩
    · exact ⟨fun _ => by omega, fun _ => by rw [hidle]; rfl, hscan.scanIndex_lt⟩

end Sys2Proof.Machine
end

section
/-! PROOFS. The frames of SEQ's instructions and of a step, and how a step runs a call. -/
namespace Sys2Proof.Machine

/-! ## The frame of the instructions that do not use ENC (R28, R29, R171, R175) -/

/-- A view of the state is the same before and after. -/
def Same {α : Type} (view : State → α) (s t : State) : Prop := view t = view s

theorem Same.trans {α : Type} {view : State → α} {s t u : State} (h : Same view s t) (h' : Same view t u) : Same view s u :=
  Eq.trans h' h

/-- What SEQ has no access to, or changes through ENC only. -/
def outsideSeq (s : State) : Enc × Memory × Memory × Memory × Memory × List HostMove × List EncOut × Nat :=
  (s.enc, s.rasterK, s.rasterR, s.planeK, s.planeR, s.inbox, s.chan, s.fresh)

theorem outsideSeq_stable : Stable (Same outsideSeq) where
  trans := Same.trans
  wire h := by
    simp [Same, outsideSeq, h.enc, h.rasterK, h.rasterR, h.planeK, h.planeR, h.inbox, h.chan, h.fresh]
  giveBack _ _ := rfl
  setLife _ _ := rfl
  noteError _ _ := rfl
  keepWaiting _ _ := rfl
  refuse _ := rfl

theorem holdRst_outsideSeq (c : Config) (lv : Level) (s : State) : Same outsideSeq s (holdRst c lv s).final := by
  unfold holdRst lineWrite
  cases s.env.lineAnswer <;> rfl

theorem resetPulse_outsideSeq (c : Config) (s : State) : Same outsideSeq s (resetPulse c s).final :=
  resetPulse_keeps (P := Same outsideSeq) Same.trans holdRst_outsideSeq c s

/-- The level last written to RST. -/
def rstLevel (s : State) : LastLevel := s.seq.rst

theorem rstLevel_stable : Stable (Same rstLevel) where
  trans := Same.trans
  wire h := h.rst
  giveBack _ _ := rfl
  setLife _ _ := rfl
  noteError _ _ := rfl
  keepWaiting _ _ := rfl
  refuse _ := rfl

theorem rstLevel_encodes (c : Config) : KeptByEncodes c (Same rstLevel) :=
  ⟨fun src dst s => by simp [Same, rstLevel], fun col s => by simp [Same, rstLevel]⟩

/-! ## The instructions that leave DC alone (R28) -/

/-- No line is driven or sampled, no byte sent, nothing waited for: SEQ has at most taken its resources (R133). -/
structure NoTraffic (s t : State) : Prop where
  dc : t.seq.dc = s.seq.dc
  rst : t.seq.rst = s.seq.rst
  hist : ∃ l, t.hist = s.hist ++ l ∧ l.all (fun e => !e.isTraffic) = true

theorem NoTraffic.trans {s t u : State} (h : NoTraffic s t) (h' : NoTraffic t u) : NoTraffic s u := by
  obtain ⟨l, hl, ql⟩ := h.hist
  obtain ⟨l', hl', ql'⟩ := h'.hist
  exact ⟨h'.dc.trans h.dc, h'.rst.trans h.rst, l ++ l', by rw [hl', hl, List.append_assoc], by rw [List.all_append, ql, ql']; rfl⟩

theorem exportLine_noTraffic (l : Line) (s : State) : NoTraffic s (exportLine l s).final := by
  simp only [exportLine]
  split <;> exact ⟨rfl, rfl, [.exported l], rfl, rfl⟩

theorem setDirection_noTraffic (l : Line) (d : Direction) (s : State) : NoTraffic s (setDirection l d s).final := by
  simp only [setDirection]
  split <;> exact ⟨rfl, rfl, [.direction l d], rfl, rfl⟩

theorem configureSpi_noTraffic (c : Config) (s : State) : NoTraffic s (configureSpi c s).final := by
  simp only [configureSpi]
  split <;> exact ⟨rfl, rfl, [.spiConfig (spiFormat c)], rfl, rfl⟩

/-- INITIALIZE drives nothing, whether it succeeds or fails (R133). -/
theorem initialiseLines_noTraffic (c : Config) (s : State) : NoTraffic s (initialiseLines c s) := by
  have h : NoTraffic s (acquireAll c s).final :=
    acquireAll_keeps (P := NoTraffic) NoTraffic.trans exportLine_noTraffic setDirection_noTraffic configureSpi_noTraffic c s
  unfold initialiseLines
  cases hr : acquireAll c s with
  | ok t => rw [hr] at h; exact ⟨h.dc, h.rst, h.hist⟩
  | raised e t => rw [hr] at h; exact ⟨h.dc, h.rst, h.hist⟩

/-- The level last written to DC. -/
def dcLevel (s : State) : LastLevel := s.seq.dc

theorem holdRst_dcLevel (c : Config) (lv : Level) (s : State) : Same dcLevel s (holdRst c lv s).final := by
  unfold holdRst lineWrite
  cases s.env.lineAnswer <;> rfl

theorem resetPanel_dcLevel (c : Config) (s : State) : Same dcLevel s (resetPanel c s) := by
  have h : Same dcLevel s (resetPulse c s).final := resetPulse_keeps (P := Same dcLevel) Same.trans holdRst_dcLevel c s
  unfold resetPanel
  cases hr : resetPulse c s <;> rw [hr] at h <;> exact h

theorem judge_dcLevel (c : Config) (a : BusyAnswer) (s : State) : Same dcLevel s (judge c a s).final := by
  unfold judge
  split
  · rfl
  split
  · rfl
  split <;> rfl

theorem pollAll_dcLevel (c : Config) (l : List BusyAnswer) (s : State) : Same dcLevel s (pollAll c l s).final := by
  induction l generalizing s with
  | nil => rfl
  | cons a l ih =>
    have h : Same dcLevel s (judge c a (setBusy l s)).final := judge_dcLevel c a (setBusy l s)
    rw [pollAll]
    cases hj : judge c a (setBusy l s) <;> rw [hj] at h
    case again t => exact h.trans (ih t)
    all_goals exact h

theorem waitBusy_dcLevel (c : Config) (s : State) : Same dcLevel s (waitBusy c s) := by
  have h := pollAll_dcLevel c s.env.busySamples s
  unfold waitBusy enterWait
  cases hr : pollAll c s.env.busySamples s <;> rw [hr] at h <;> exact h

/-- Settles O46: the memories, ENC and RST by what all shared steps keep, DC by the three instructions' own steps. -/
theorem frameOfTheSequencer : Obligations.FrameOfTheSequencer := by
  unfold Obligations.FrameOfTheSequencer
  intro i s t henc h
  have hout : Same outsideSeq s t :=
    outsideSeq_stable.exec i (fun huses => by simp [henc] at huses) (fun _ => resetPulse_outsideSeq _) h
  have hrst (hi : i ≠ .reset) : Same rstLevel s t := rstLevel_stable.exec i (fun _ => rstLevel_encodes _) (fun hi' => absurd hi' hi) h
  have hdc (hi : i = .reset ∨ i = .initialise ∨ i = .waitBusy) : Same dcLevel s t := by
    rw [exec_eq_operation, operation] at h
    split at h <;> cases h
    · rcases hi with rfl | rfl | rfl
      · exact resetPanel_dcLevel _ s
      · exact (initialiseLines_noTraffic _ s).dc
      · exact waitBusy_dcLevel _ s
    · rfl
  simp only [Same, outsideSeq, Prod.mk.injEq] at hout
  obtain ⟨hE, hrK, hrR, hpK, hpR, hinbox, hchan, hfresh⟩ := hout
  exact ⟨hE, hrK, hrR, hpK, hpR, hinbox, hchan, hfresh, hrst, hdc⟩

/-! ## The rasters (R18, R96) -/

/-- The two RASTER spaces. -/
def rasters (s : State) : Memory × Memory := (s.rasterK, s.rasterR)

theorem rasters_stable : Stable (Same rasters) where
  trans := Same.trans
  wire h := by simp [Same, rasters, h.rasterK, h.rasterR]
  giveBack _ _ := rfl
  setLife _ _ := rfl
  noteError _ _ := rfl
  keepWaiting _ _ := rfl
  refuse _ := rfl

theorem rasters_encodes (c : Config) : KeptByEncodes c (Same rasters) :=
  ⟨fun src dst s => by simp [Same, rasters], fun col s => by simp [Same, rasters]⟩

theorem holdRst_rasters (c : Config) (lv : Level) (s : State) : Same rasters s (holdRst c lv s).final := by
  have h := holdRst_inside c lv s
  simp [Same, rasters, h.rasterK, h.rasterR]

theorem exec_rasters {i : Instr} {s t : State} (h : exec i s = .next t) : Same rasters s t :=
  rasters_stable.exec i (fun _ => rasters_encodes _)
    (fun _ => resetPulse_keeps (P := Same rasters) Same.trans holdRst_rasters _) h

theorem encStart_rasters (c : Config) (col : Colour) (w h : Nat) (s : State) : Same rasters s (encStart c col w h s) := by
  unfold encStart
  split
  · rfl
  split <;> rfl

/-- No move of HOST but its supply changes a raster. -/
theorem runMove_rasters {m : HostMove} {s t : State} (hm : ∀ col bs, m ≠ .supply col bs) (h : runMove m s = .next t) :
    Same rasters s t := by
  cases m with
  | call c =>
    rw [runMove] at h
    split at h
    · exact exec_rasters h
    · cases h; rfl
  | await => cases h; rfl
  | supply col bs => exact absurd rfl (hm col bs)
  | start col w hh => cases h; exact encStart_rasters _ col w hh s
  | pixIn px => cases h; have h := encPixel_work Config.hw px s; simp [Same, rasters, h.rasterK, h.rasterR]

/-- Settles O48: by the three things a step can be; a supply made while an operation stands in WAIT_BUSY is refused. -/
theorem rastersChangeOnlyByHost : Obligations.RastersChangeOnlyByHost := by
  unfold Obligations.RastersChangeOnlyByHost
  intro s t h hsupply
  suffices Same rasters s t from Prod.mk.inj this
  rcases step_cases s with ⟨p, -, -, hs⟩ | ⟨m, rest, hinbox, -, hs⟩ | ⟨-, -, hs⟩
  · rw [hs] at h; cases h
    exact rasters_stable.resumeWait _ p (rasters_stable.discardFor (rasters_encodes Config.hw) p.op) s
  · rw [hs] at h
    by_cases hm : ∃ col bs, m = .supply col bs
    · have hbusy : s.pending ≠ none := fun hnone => by
        obtain ⟨col, bs, rfl⟩ := hm
        exact hsupply hnone col bs (by rw [hinbox]; rfl)
      rw [busy_refuses (s := setInbox rest s) (fun hidle => hbusy hidle.1) (.inr (.inl hm))] at h
      cases h; rfl
    · exact runMove_rasters (s := setInbox rest s) (fun col bs he => hm ⟨col, bs, he⟩) h
  · rw [hs] at h; cases h; rfl

/-! ## How a step runs a call (R15, R16) -/

/-- A call that decodes, next in HOST's queue, is run whether or not an operation is in progress. -/
theorem step_of_call {c : Call} {i : Instr} {rest : List HostMove} {s : State} (hinbox : s.inbox = .call c :: rest)
    (hdecode : decode c = .ok i) : step s = exec i (setInbox rest s) := by
  rw [step_moves hinbox (.inr nofun), runMove, hdecode]

theorem decode_tableCall {nbits w : Nat} {i : Instr} (h : decodeTableWord nbits w = some i) : decode (tableCall nbits w) = .ok i := by
  unfold decodeTableWord at h
  cases hd : decode (tableCall nbits w) with
  | ok j => rw [hd] at h; cases h; rfl
  | error e => rw [hd] at h; cases h

/-- Settles O55: a placed call is the next move, and the queue behind it is the one before. -/
theorem stepRunsTheDecodedInstruction : Obligations.StepRunsTheDecodedInstruction := by
  unfold Obligations.StepRunsTheDecodedInstruction
  refine ⟨fun c i rest s hinbox hdecode => step_of_call hinbox hdecode, fun nbits w i s hw => ?_⟩
  exact step_of_call (placeCall_inbox (tableCall nbits w) s) (decode_tableCall hw)

end Sys2Proof.Machine
end

section
/-! PROOFS. The invariant of Safety.lean: it holds at construction, and every step keeps it. -/
namespace Sys2Proof.Machine

/-- Settles O57: the memories and histories are empty, nothing is known of the lines. -/
theorem invariantHoldsAtConstruction : Obligations.InvariantHoldsAtConstruction := by
  unfold Obligations.InvariantHoldsAtConstruction
  exact {
    memory := ⟨rfl, rfl, rfl, rfl⟩
    position := ⟨by decide, by decide, by decide⟩
    accumulator := nofun
    waiting := nofun
    resetHigh := fun h => by rcases h with h | h <;> cases h
    silent := fun _ => ⟨rfl, rfl, rfl⟩
    sticky := rfl
    framed := rfl }

/-! ## ENC between two invocations -/

/-- ENC is idle, its position in its ranges, and every address space canonical. -/
structure Rested (s : State) : Prop where
  canonical : Canonical s
  placed : Placed Config.hw s.enc
  idle : s.enc.active = false

theorem Inv.rested {s : State} (h : Inv Config.hw s) (hidle : s.enc.active = false) : Rested s :=
  ⟨canonical_iff.2 h.memory, h.position, hidle⟩

/-- ENC's registers and the memories are not SEQ's. -/
theorem Rested.of_outsideSeq {s t : State} (h : Same outsideSeq s t) (hs : Rested s) : Rested t := by
  simp only [Same, outsideSeq, Prod.mk.injEq] at h
  obtain ⟨henc, hrK, hrR, hpK, hpR, -⟩ := h
  refine ⟨canonical_iff.2 ?_, henc ▸ hs.placed, henc ▸ hs.idle⟩
  rw [hrK, hrR, hpK, hpR]
  exact canonical_iff.1 hs.canonical

theorem rested_stable : Stable fun s t => Rested s → Rested t where
  trans h h' hs := h' (h hs)
  wire h := .of_outsideSeq (outsideSeq_stable.wire h)
  giveBack _ _ := .of_outsideSeq rfl
  setLife _ _ := .of_outsideSeq rfl
  noteError _ _ := .of_outsideSeq rfl
  keepWaiting _ _ := .of_outsideSeq rfl
  refuse _ := .of_outsideSeq rfl

theorem encodeInto_canonical (c : Config) (src dst : Colour) {s : State} (h : Canonical s) : Canonical (encodeInto c src dst s) := by
  intro sp
  by_cases he : sp = dst.planeSpace
  · rw [he, encodeInto_memOf_same]; exact Memory.wf_writeAll _ _ _ (h _)
  · rw [encodeInto_memOf_other _ _ _ _ _ he]; exact h sp

theorem rested_encodes : KeptByEncodes Config.hw fun s t => Rested s → Rested t := by
  refine ⟨fun src dst s hs => ?_, fun col s hs => ?_⟩
  · refine ⟨encodeInto_canonical _ src dst hs.canonical, ?_, ?_⟩ <;> rw [encodeInto_enc]
    · exact idleEnc_placed hw_fits _ dst
    · rfl
  · refine ⟨hs.canonical.setMem _ rfl, ?_, ?_⟩ <;> rw [discardPlane_enc]
    · exact hs.placed
    · exact hs.idle

theorem meaning_rested (i : Instr) {s : State} (hs : Rested s) : Rested (meaning i s) :=
  rested_stable.meaning i (fun _ => rested_encodes)
    (fun _ t => .of_outsideSeq (resetPulse_outsideSeq _ t)) s hs

theorem resumeWait_rested (p : Pending) {s : State} (hs : Rested s) : Rested (resumeWait Config.hw p s) :=
  rested_stable.resumeWait _ p (rested_stable.discardFor rested_encodes p.op) s hs

/-! ## The operation in progress (R117, R132) -/

/-- Either no operation is in progress, or this one stands in its WAIT_BUSY. -/
def AtMost (p : Pending) (s : State) : Prop := s.pending = none ∨ s.pending = some p

@[simp] theorem settle_pending (start : Nat) (f : State → State) (r : Run) : (settle start f r).pending = none := by
  cases r <;> rfl

@[simp] theorem conclude_pending (c : Config) (p : Pending) (s : State) : (conclude c p s).pending = none := by
  obtain ⟨op, start⟩ := p
  cases op
  case firstSequence => exact settle_pending _ _ _
  case close => exact settle_pending _ _ _
  all_goals rfl

theorem settlePoll_pending (c : Config) (p : Pending) (r : Poll) : AtMost p (settlePoll c p r) := by
  cases r with
  | ready t => exact .inl (conclude_pending c p t)
  | again t => exact .inr rfl
  | raised e t => exact .inl rfl

theorem resumeWait_pending (c : Config) (p : Pending) (s : State) : AtMost p (resumeWait c p s) := by
  unfold resumeWait
  split <;> exact settlePoll_pending c p _

theorem thenWait_pending (c : Config) (p : Pending) (r : Run) : AtMost p (thenWait c p r) := by
  cases r with
  | ok t => exact settlePoll_pending c p _
  | raised e t => exact .inl rfl

theorem sendSource_pending (c : Config) (code : Byte) (dst : Colour) (p : PlaneSource) (s : State) :
    (sendSource c code dst p s).pending = none := by
  cases p with
  | white => exact settle_pending _ _ _
  | stripe n => exact settle_pending _ _ _
  | encoded r =>
    simp only [sendSource, sendEncoded]
    split
    · rfl
    · rw [discardPlane_pending, settle_pending]

theorem printImage_pending (c : Config) (r : RasterArg) (red : Option RasterArg) (s : State) :
    AtMost ⟨.printImage, s.hist.length⟩ (printImage c r red s) := by
  unfold printImage
  split
  · exact .inl rfl
  split
  · exact .inl rfl
  · exact thenWait_pending c _ _

theorem initialiseLines_pending (c : Config) (s : State) : (initialiseLines c s).pending = none := by
  unfold initialiseLines
  split <;> rfl

theorem encodePlane_pending (c : Config) (r : RasterArg) (s : State) : (encodePlane c r s).pending = none := by
  unfold encodePlane
  split <;> rfl

/-- An instruction leaves at most one operation in progress: one that may stand in its WAIT_BUSY in every lifecycle value that
admits the instruction (R132). -/
theorem meaning_pending (i : Instr) (s : State) :
    (meaning i s).pending = none ∨ ∃ op, (meaning i s).pending = some ⟨op, s.hist.length⟩ ∧ waitLives op = admittedIn i := by
  have waits {op : Waiting} (h : AtMost ⟨op, s.hist.length⟩ (meaning i s)) (hop : waitLives op = admittedIn i) :
      (meaning i s).pending = none ∨ ∃ op, (meaning i s).pending = some ⟨op, s.hist.length⟩ ∧ waitLives op = admittedIn i :=
    h.imp_right fun h => ⟨op, h, hop⟩
  cases i
  case panelSetting => exact .inl (settle_pending _ _ _)
  case powerOff => exact waits (thenWait_pending _ ⟨.powerOff, _⟩ _) rfl
  case powerOn => exact waits (thenWait_pending _ ⟨.powerOn, _⟩ _) rfl
  case boosterSoftStart => exact .inl (settle_pending _ _ _)
  case deepSleep => exact .inl (settle_pending _ _ _)
  case dataBlack p => exact .inl (sendSource_pending _ _ _ p s)
  case displayRefresh => exact waits (thenWait_pending _ ⟨.displayRefresh, _⟩ _) rfl
  case dataRed p => exact .inl (sendSource_pending _ _ _ p s)
  case initialise => exact .inl (initialiseLines_pending _ s)
  case reset => exact .inl (settle_pending _ _ _)
  case sendCommandByte b => exact .inl (settle_pending _ _ _)
  case sendDataByte b => exact .inl (settle_pending _ _ _)
  case sendData bs => exact .inl (settle_pending _ _ _)
  case waitBusy => exact waits (settlePoll_pending _ ⟨.waitBusy, _⟩ _) rfl
  case firstSequence => exact waits (thenWait_pending _ ⟨.firstSequence, _⟩ _) rfl
  case clearDisplay => exact waits (thenWait_pending _ ⟨.clearDisplay, _⟩ _) rfl
  case printTricolor => exact waits (thenWait_pending _ ⟨.printTricolor, _⟩ _) rfl
  case printImage r red => exact waits (printImage_pending _ r red s) rfl
  case close => exact waits (thenWait_pending _ ⟨.close, _⟩ _) rfl
  case encodePlane r => exact .inl (encodePlane_pending _ r s)

/-! ## RST after RESET (R29, R134) -/

/-- The lifecycle values in which a RESET has succeeded. -/
def AfterReset (l : Life) : Prop := l = .resetDone ∨ l = .sequenced

theorem Run.andThen_eq_ok {r : Run} {f : State → Run} {t : State} (h : r.andThen f = .ok t) : ∃ u, r = .ok u ∧ f u = .ok t := by
  cases r with
  | ok u => exact ⟨u, rfl, h⟩
  | raised e u => cases h

theorem holdRst_ok {c : Config} {lv : Level} {s t : State} (h : holdRst c lv s = .ok t) : t.seq.rst = .ofLevel lv := by
  unfold holdRst lineWrite at h
  split at h <;> cases h
  rfl

theorem holdRst_emits (c : Config) (lv : Level) (s : State) : s.hist.length < (holdRst c lv s).final.hist.length := by
  unfold holdRst lineWrite
  cases s.env.lineAnswer <;> simp [Run.final, Run.andThen]

/-- A RESET that succeeds leaves RST high; one that fails has emitted an event, so the lifecycle value is READY (R132). -/
theorem resetPanel_rst (c : Config) (s : State) : (resetPanel c s).seq.rst = .high ∨ (resetPanel c s).seq.life = .ready := by
  have hemits : s.hist.length < (resetPulse c s).final.hist.length :=
    resetPulse_keeps (P := fun s t => s.hist.length < t.hist.length) Nat.lt_trans holdRst_emits c s
  unfold resetPanel
  cases hr : resetPulse c s with
  | ok t =>
    obtain ⟨u, -, hhigh⟩ := Run.andThen_eq_ok hr
    exact .inl (holdRst_ok hhigh)
  | raised e t =>
    rw [hr] at hemits
    exact .inr (if_neg (Nat.ne_of_gt hemits))

/-- No instruction but RESET leads to these lifecycle values: FIRST_SEQUENCE is admitted after RESET only (R132). -/
theorem afterReset_of_lifeAfterOk {i : Instr} {l : Life} (hi : i ≠ .reset) (hl : l ∈ admittedIn i)
    (h : AfterReset (lifeAfterOk i l)) : AfterReset l := by
  cases i
  case reset => exact absurd rfl hi
  case firstSequence => exact .inl (List.mem_singleton.1 hl)
  case initialise | close => rcases h with h | h <;> cases h
  all_goals exact h

theorem afterReset_of_lifeAfterWait {op : Waiting} {l : Life} (hl : l ∈ waitLives op) (h : AfterReset (lifeAfterWait op l)) :
    AfterReset l := by
  cases op
  case firstSequence => exact .inl (List.mem_singleton.1 hl)
  case close => rcases h with h | h <;> cases h
  all_goals exact h

/-! ## Silence without the resources (R27, R185) -/

/-- The lifecycle values in which SEQ does not hold its resources. -/
def WithoutResources (l : Life) : Prop := l = .constructed ∨ l = .unusable

theorem not_withoutResources_of_open {l : Life} (hl : l ∈ openLives) : ¬ WithoutResources l := by
  rintro (rfl | rfl) <;> exact absurd hl (by decide)

/-- An operation stands in its WAIT_BUSY with the resources only (R132). -/
theorem mem_openLives_of_waiting {op : Waiting} {l : Life} (hl : l ∈ waitLives op) : l ∈ openLives := by
  cases op
  case firstSequence | clearDisplay | printTricolor | printImage => rw [List.mem_singleton.1 hl]; decide
  all_goals exact hl

theorem not_withoutResources_of_lifeAfterWait {op : Waiting} {l : Life} (h : ¬ WithoutResources l) :
    ¬ WithoutResources (lifeAfterWait op l) := by
  cases op
  case firstSequence | close => simp [WithoutResources, lifeAfterWait]
  all_goals exact h

/-- Only INITIALIZE and ENCODE_PLANE are admitted without the resources (R132). -/
theorem admitted_withoutResources {i : Instr} {l : Life} (h : WithoutResources l) (hl : l ∈ admittedIn i) :
    i = .initialise ∨ ∃ r, i = .encodePlane r := by
  cases i
  case initialise => exact .inl rfl
  case encodePlane r => exact .inr ⟨r, rfl⟩
  case firstSequence | clearDisplay | printTricolor | printImage =>
    rw [List.mem_singleton.1 hl] at h
    rcases h with h | h <;> cases h
  all_goals exact absurd h (not_withoutResources_of_open hl)

theorem encodePlane_noTraffic (c : Config) (r : RasterArg) (s : State) : NoTraffic s (encodePlane c r s) := by
  unfold encodePlane
  split
  · exact ⟨rfl, rfl, [], by simp, rfl⟩
  · exact ⟨by simp, by simp, [], by simp, rfl⟩

theorem meaning_noTraffic {i : Instr} {s : State} (h : WithoutResources s.seq.life) (hl : s.seq.life ∈ admittedIn i) :
    NoTraffic s (meaning i s) := by
  rcases admitted_withoutResources h hl with rfl | ⟨r, rfl⟩
  · exact initialiseLines_noTraffic _ s
  · exact encodePlane_noTraffic _ r s

/-- An operation issued with the resources does not end without them. -/
theorem not_withoutResources_of_lifeAfterOk {i : Instr} {l : Life} (h : ¬ WithoutResources l) : ¬ WithoutResources (lifeAfterOk i l) := by
  cases i
  case initialise | reset | firstSequence | close => simp [WithoutResources, lifeAfterOk]
  all_goals exact h

/-! ## How the invariant survives the end of an operation -/

theorem firstErrorKind_append_isOk (l : List OpResult) {r : OpResult} (hr : r.isOk = true) :
    firstErrorKind (l ++ [r]) = firstErrorKind l := by
  induction l with
  | nil =>
    cases r with
    | ok => rfl
    | okPlane rows => rfl
    | error e => cases hr
  | cons a l ih => cases a <;> simp [firstErrorKind, ih]

theorem firstErrorKind_append_error (l : List OpResult) (e : Error) :
    firstErrorKind (l ++ [.error e]) = stickyErr (firstErrorKind l) e := by
  induction l with
  | nil => rfl
  | cons a l ih => cases a <;> simp [firstErrorKind, ih, stickyErr]

theorem EndsAs.life {start : Nat} {okLife badLife : Life} {s t : State} (h : EndsAs start okLife badLife s t) :
    t.seq.life = okLife ∨ t.seq.life = badLife ∨ t.seq.life = s.seq.life := by
  cases h with
  | ok r hr hret hp hl he => exact .inl hl
  | err e hret hp hl he => rw [hl]; split <;> simp
  | wait op hret hp hl he => exact .inr (.inr hl)

theorem EndsAs.life_of_pending {start : Nat} {okLife badLife : Life} {s t : State} (h : EndsAs start okLife badLife s t)
    {p : Pending} (hp : t.pending = some p) : t.seq.life = s.seq.life ∧ p.start = start := by
  cases h with
  | ok r hr hret hnone hl he => rw [hnone] at hp; cases hp
  | err e hret hnone hl he => rw [hnone] at hp; cases hp
  | wait op hret hsome hl he => rw [hsome] at hp; cases hp; exact ⟨hl, rfl⟩

theorem EndsAs.sticky {start : Nat} {okLife badLife : Life} {s t : State} (h : EndsAs start okLife badLife s t)
    (hs : s.seq.err = firstErrorKind s.returns) : t.seq.err = firstErrorKind t.returns := by
  cases h with
  | ok r hr hret hp hl he => rw [hret, he, hs, firstErrorKind_append_isOk _ hr]
  | err e hret hp hl he => rw [hret, he, hs, firstErrorKind_append_error]
  | wait op hret hp hl he => rw [hret, he, hs]

theorem Keeps.hist_length_le {s t : State} (h : Keeps s t) : s.hist.length ≤ t.hist.length := by
  obtain ⟨l, hl, -⟩ := h.hist
  rw [hl, List.length_append]; exact Nat.le_add_right _ _

theorem Keeps.framed {s t : State} (h : Keeps s t) (hs : dcFramed false s.hist = true) : dcFramed false t.hist = true := by
  obtain ⟨l, hl, hblock⟩ := h.hist
  rw [hl]; exact dcFramed_append _ _ _ hs hblock

/-- An operation, issued or taken up again, keeps the invariant if it leaves ENC at rest, waits only where it may, leaves RST high
after RESET and is silent without the resources. -/
theorem Inv.of_ends {start : Nat} {okLife badLife : Life} {s t : State} (hs : Inv Config.hw s)
    (hends : EndsAs start okLife badLife s t) (hkeeps : Keeps s t) (hrested : Rested t) (hstart : start ≤ s.hist.length)
    (hwaits : ∀ p, t.pending = some p → s.seq.life ∈ waitLives p.op)
    (hreset : AfterReset t.seq.life → t.seq.rst = .high)
    (hsilent : WithoutResources t.seq.life →
      t.seq.dc = .unknown ∧ t.seq.rst = .unknown ∧ t.hist.all (fun e => !e.isTraffic) = true) : Inv Config.hw t where
  memory := canonical_iff.1 hrested.canonical
  position := hrested.placed
  accumulator ha := by rw [hrested.idle] at ha; cases ha
  waiting p hp := by
    obtain ⟨hlife, hpstart⟩ := hends.life_of_pending hp
    exact ⟨hlife ▸ hwaits p hp, hpstart ▸ hstart.trans hkeeps.hist_length_le, hrested.idle⟩
  resetHigh := hreset
  silent := hsilent
  sticky := hends.sticky hs.sticky
  framed := hkeeps.framed hs.framed

/-! ## Every move and every poll keeps the invariant -/

theorem Inv.setInbox {s : State} (h : Inv Config.hw s) (l : List HostMove) : Inv Config.hw (setInbox l s) :=
  ⟨h.memory, h.position, h.accumulator, h.waiting, h.resetHigh, h.silent, h.sticky, h.framed⟩

theorem Inv.refuse {s : State} (h : Inv Config.hw s) : Inv Config.hw (refuse s) :=
  ⟨h.memory, h.position, h.accumulator, h.waiting, h.resetHigh, h.silent, h.sticky, h.framed⟩

/-- RST after an admitted instruction: RESET's own pulse, or as it was. -/
theorem meaning_resetHigh {i : Instr} {s : State} (hs : Inv Config.hw s) (hl : s.seq.life ∈ admittedIn i)
    (h : AfterReset (meaning i s).seq.life) : (meaning i s).seq.rst = .high := by
  by_cases hi : i = .reset
  · subst hi
    refine (resetPanel_rst Config.hw s).resolve_right fun hready => ?_
    change AfterReset (resetPanel Config.hw s).seq.life at h
    rw [hready] at h
    rcases h with h | h <;> cases h
  · have hrst : (meaning i s).seq.rst = s.seq.rst :=
      rstLevel_stable.meaning i (fun _ => rstLevel_encodes _) (fun hi' => absurd hi' hi) s
    refine hrst.trans (hs.resetHigh ?_)
    rcases (meaning_ends i s hl).1.life with hlife | hlife | hlife <;> rw [hlife] at h
    · exact afterReset_of_lifeAfterOk hi hl h
    · split at h <;> rcases h with h | h <;> cases h
    · exact h

/-- Without the resources an admitted instruction has driven nothing. -/
theorem meaning_silent {i : Instr} {s : State} (hs : Inv Config.hw s) (hl : s.seq.life ∈ admittedIn i)
    (h : WithoutResources (meaning i s).seq.life) :
    (meaning i s).seq.dc = .unknown ∧ (meaning i s).seq.rst = .unknown ∧
      (meaning i s).hist.all (fun e => !e.isTraffic) = true := by
  by_cases hbefore : WithoutResources s.seq.life
  · obtain ⟨hdc, hrst, hhist⟩ := hs.silent hbefore
    have hquiet := meaning_noTraffic hbefore hl
    obtain ⟨l, happend, hall⟩ := hquiet.hist
    exact ⟨hquiet.dc.trans hdc, hquiet.rst.trans hrst, by rw [happend, List.all_append, hhist, hall]; rfl⟩
  · have hi : i ≠ .initialise := by rintro rfl; exact hbefore (.inl (List.mem_singleton.1 hl))
    rcases (meaning_ends i s hl).1.life with hlife | hlife | hlife <;> rw [hlife] at h
    · exact absurd h (not_withoutResources_of_lifeAfterOk hbefore)
    · rw [if_neg hi] at h; rcases h with h | h <;> cases h
    · exact absurd h hbefore

theorem meaning_inv {i : Instr} {s : State} (hs : Inv Config.hw s) (hidle : Idle s) (hl : s.seq.life ∈ admittedIn i) :
    Inv Config.hw (meaning i s) := by
  obtain ⟨hends, hkeeps⟩ := meaning_ends i s hl
  refine hs.of_ends hends hkeeps (meaning_rested i (hs.rested hidle.2)) le_rfl (fun p hp => ?_)
    (meaning_resetHigh hs hl) (meaning_silent hs hl)
  rcases meaning_pending i s with hnone | ⟨op, hsome, hlives⟩
  · rw [hnone] at hp; cases hp
  · rw [hsome] at hp; cases hp; rw [hlives]; exact hl

theorem exec_inv {i : Instr} {s t : State} (hs : Inv Config.hw s) (h : exec i s = .next t) : Inv Config.hw t := by
  by_cases hadm : Idle s ∧ s.seq.life ∈ admittedIn i
  · rw [exec_admitted hadm.1 hadm.2] at h; cases h
    exact meaning_inv hs hadm.1 hadm.2
  · rw [exec_refused hadm] at h; cases h
    exact hs.refuse

/-- A further poll, with the rest of the operation when it ends (R115, R135, R142). -/
theorem resumeWait_inv {p : Pending} {s : State} (hs : Inv Config.hw s) (hp : s.pending = some p) :
    Inv Config.hw (resumeWait Config.hw p s) := by
  obtain ⟨hlife, hstart, hidle⟩ := hs.waiting p hp
  have hnow := not_withoutResources_of_open (mem_openLives_of_waiting hlife)
  obtain ⟨hends, hkeeps⟩ := resumeWait_ends Config.hw p s
  have hrst : (resumeWait Config.hw p s).seq.rst = s.seq.rst :=
    rstLevel_stable.resumeWait _ p (rstLevel_stable.discardFor (rstLevel_encodes Config.hw) p.op) s
  refine hs.of_ends hends hkeeps (resumeWait_rested p (hs.rested hidle)) hstart (fun q hq => ?_)
    (fun h => hrst.trans (hs.resetHigh ?_)) (fun h => ?_)
  · rcases resumeWait_pending Config.hw p s with hnone | hsome
    · rw [hnone] at hq; cases hq
    · rw [hsome] at hq; cases hq; exact hlife
  · rcases hends.life with hl | hl | hl <;> rw [hl] at h
    · exact afterReset_of_lifeAfterWait hlife h
    · rcases h with h | h <;> cases h
    · exact h
  · rcases hends.life with hl | hl | hl <;> rw [hl] at h
    · exact absurd h (not_withoutResources_of_lifeAfterWait hnow)
    · rcases h with h | h <;> cases h
    · exact absurd h hnow

theorem not_inProgress {s : State} (h : ¬ inProgress s = true) : Idle s := by
  simp only [inProgress, Bool.or_eq_true, not_or, Bool.not_eq_true, Option.isSome_eq_false_iff, Option.isNone_iff_eq_none] at h
  exact h

theorem encStart_inv {s : State} (hs : Inv Config.hw s) (col : Colour) (w h : Nat) : Inv Config.hw (encStart Config.hw col w h s) := by
  unfold encStart
  split
  · exact hs.refuse
  next hbusy =>
  obtain ⟨hpending, hidle⟩ := not_inProgress hbusy
  split
  next e _ =>
    have hlife : (abort s.hist.length e s).seq.life = s.seq.life := if_pos rfl
    obtain ⟨hends, hkeeps⟩ := abort_ends (okL := s.seq.life) (start := s.hist.length) (e := e) (Inside.refl s)
    exact hs.of_ends hends hkeeps (.of_outsideSeq (s := s) rfl (hs.rested hidle)) le_rfl nofun
      (hlife ▸ hs.resetHigh) (hlife ▸ hs.silent)
  · exact { hs with
      position := ⟨hw_fits.h, hw_fits.b, Nat.zero_lt_succ 7⟩
      accumulator := fun _ => Nat.one_pos
      waiting := fun p hp => by rw [setEnc_pending, hpending] at hp; cases hp }

theorem supplyRaster_inv {s : State} (hs : Inv Config.hw s) (col : Colour) (bs : List Byte) : Inv Config.hw (supplyRaster col bs s) := by
  unfold supplyRaster
  split
  · exact hs.refuse
  · have hmem := (canonical_iff.2 hs.memory).setMem col.rasterSpace (Memory.wf_writeAll bs [] 0 rfl)
    exact ⟨canonical_iff.1 hmem, by simpa using hs.position, by simpa using hs.accumulator, by simpa using hs.waiting,
      by simpa using hs.resetHigh, by simpa using hs.silent, by simpa using hs.sticky, by simpa using hs.framed⟩

/-- A sample of a stream: ENC's registers by `encPixel_moves`, all else by `EncWork` (R102 to R104). -/
theorem encPixel_inv {s : State} (hs : Inv Config.hw s) (px : Byte) : Inv Config.hw (encPixel Config.hw px s) := by
  cases ha : s.enc.active with
  | false => rw [encPixel_of_idle _ px ha]; exact hs.refuse
  | true =>
    have hwork := encPixel_work Config.hw px s
    have henc : Placed Config.hw (encPixel Config.hw px s).enc ∧ ((encPixel Config.hw px s).enc.active = true →
        (encPixel Config.hw px s).enc.acc.toNat < 2 ^ (encPixel Config.hw px s).enc.j) := by
      rcases encPixel_moves px (hs.scanning ha) with ⟨hscan, -⟩ | ⟨⟨k, hidle⟩, -⟩
      · exact ⟨hscan.placed, fun _ => hscan.acc⟩
      · rw [hidle]; exact ⟨idleEnc_placed hw_fits k _, nofun⟩
    refine {
      memory := canonical_iff.1 (hwork.canonical (canonical_iff.2 hs.memory))
      position := henc.1
      accumulator := henc.2
      waiting := fun p hp => ?_
      resetHigh := ?_
      silent := ?_
      sticky := ?_
      framed := ?_ }
    · rw [encPixel_pending] at hp
      obtain ⟨-, -, hidle⟩ := hs.waiting p hp
      rw [ha] at hidle; cases hidle
    · rw [hwork.seq]; exact hs.resetHigh
    · rw [hwork.seq, hwork.hist]; exact hs.silent
    · rw [hwork.seq, hwork.returns]; exact hs.sticky
    · rw [hwork.hist]; exact hs.framed

theorem runMove_inv {m : HostMove} {s t : State} (hs : Inv Config.hw s) (h : runMove m s = .next t) : Inv Config.hw t := by
  cases m with
  | call c =>
    rw [runMove] at h
    split at h
    · exact exec_inv hs h
    · cases h; exact hs.refuse
  | await => cases h; exact hs
  | supply col bs => cases h; exact supplyRaster_inv hs col bs
  | start col w hh => cases h; exact encStart_inv hs col w hh
  | pixIn px => cases h; exact encPixel_inv hs px

/-- Settles O58: by the three things a step can be, a further poll, a move of HOST, or nothing. -/
theorem everyStepKeepsTheInvariant : Obligations.EveryStepKeepsTheInvariant := by
  unfold Obligations.EveryStepKeepsTheInvariant
  intro s t hs h
  rcases step_cases s with ⟨p, hp, -, hstep⟩ | ⟨m, rest, -, -, hstep⟩ | ⟨-, -, hstep⟩ <;> rw [hstep] at h
  · cases h; exact resumeWait_inv hs hp
  · exact runMove_inv (hs.setInbox rest) h
  · cases h; exact hs

end Sys2Proof.Machine
end

section
/-! PROOFS. The block never reads `seq.dc`, `seq.rst` or `seq.err` (R28, R29, R31): from states that differ only there every
function of the machine leads to states that differ only there. -/
namespace Sys2Proof.Machine

/-- Two states that differ at most in `seq.dc`, `seq.rst` and `seq.err`. -/
def Alike (s s' : State) : Prop :=
  ∃ dc rst err, s' = { s with seq := { s.seq with dc := dc, rst := rst, err := err } }

theorem Alike.refl (s : State) : Alike s s := ⟨s.seq.dc, s.seq.rst, s.seq.err, rfl⟩

/-! What two such states agree on. -/

section
variable {s s' : State} (h : Alike s s')
include h

theorem Alike.enc : s'.enc = s.enc := by obtain ⟨dc, rst, err, rfl⟩ := h; rfl
theorem Alike.life : s'.seq.life = s.seq.life := by obtain ⟨dc, rst, err, rfl⟩ := h; rfl
theorem Alike.mem (sp : Space) : memOf sp s' = memOf sp s := by obtain ⟨dc, rst, err, rfl⟩ := h; cases sp <;> rfl
theorem Alike.pending : s'.pending = s.pending := by obtain ⟨dc, rst, err, rfl⟩ := h; rfl
theorem Alike.inbox : s'.inbox = s.inbox := by obtain ⟨dc, rst, err, rfl⟩ := h; rfl
theorem Alike.env : s'.env = s.env := by obtain ⟨dc, rst, err, rfl⟩ := h; rfl
theorem Alike.hist : s'.hist = s.hist := by obtain ⟨dc, rst, err, rfl⟩ := h; rfl

theorem Alike.inProgress : inProgress s' = inProgress s := by rw [Machine.inProgress, h.pending, h.enc]; rfl
theorem Alike.hostWaits : hostWaits s' = hostWaits s := by unfold Machine.hostWaits; rw [h.inbox]

end

/-- Two sequences of steps end alike. -/
inductive RunsAlike : Run → Run → Prop
  | ok {s s' : State} (h : Alike s s') : RunsAlike (.ok s) (.ok s')
  | raised (e : Error) {s s' : State} (h : Alike s s') : RunsAlike (.raised e s) (.raised e s')

/-- Polling ends alike. -/
inductive PollsAlike : Poll → Poll → Prop
  | ready {s s' : State} (h : Alike s s') : PollsAlike (.ready s) (.ready s')
  | again {s s' : State} (h : Alike s s') : PollsAlike (.again s) (.again s')
  | raised (e : Error) {s s' : State} (h : Alike s s') : PollsAlike (.raised e s) (.raised e s')

/-- A function of the state that does not read the three. -/
def Blind (f : State → State) : Prop := ∀ s s', Alike s s' → Alike (f s) (f s')

/-- The same of a sequence of steps. -/
def BlindRun (f : State → Run) : Prop := ∀ s s', Alike s s' → RunsAlike (f s) (f s')

theorem Blind.comp {f g : State → State} (hf : Blind f) (hg : Blind g) : Blind fun s => f (g s) :=
  fun s s' h => hf _ _ (hg s s' h)

/-! ## Steps of SEQ -/

theorem RunsAlike.andThen {r r' : Run} (h : RunsAlike r r') {f : State → Run} (hf : BlindRun f) :
    RunsAlike (r.andThen f) (r'.andThen f) := by
  cases h with
  | ok h => exact hf _ _ h
  | raised e h => exact .raised e h

theorem lineWrite_blind (l : OutLine) (lv : Level) : BlindRun (lineWrite l lv) := by
  rintro s _ ⟨dc, rst, err, rfl⟩
  unfold lineWrite
  cases s.env.lineAnswer with
  | ok => cases l <;> exact .ok ⟨_, _, _, rfl⟩
  | err e => exact .raised _ ⟨_, _, _, rfl⟩

theorem spiWrite_blind (bytes : List Byte) : Blind (spiWrite bytes) := by
  rintro s _ ⟨dc, rst, err, rfl⟩
  exact ⟨dc, rst, err, rfl⟩

theorem sendByte_blind (lv : Level) (b : Byte) : BlindRun (sendByte lv b) := by
  intro s s' h
  refine (lineWrite_blind .dc lv s s' h).andThen fun t t' ht => ?_
  have hwritten := spiWrite_blind [b] t t' ht
  rw [ht.env]
  cases t.env.spiAnswer 1 with
  | ok n => exact .ok hwritten
  | err e => exact .raised _ hwritten

theorem logPartial_blind (r w : Nat) : Blind (logPartial r w) := by
  rintro s _ ⟨dc, rst, err, rfl⟩
  unfold logPartial
  split <;> exact ⟨dc, rst, err, rfl⟩

theorem sendData_blind (c : Config) (bytes : List Byte) : BlindRun (sendData c bytes) := by
  intro s s' h
  refine (lineWrite_blind .dc _ s s' h).andThen fun t t' ht => ?_
  have hwritten := spiWrite_blind bytes t t' ht
  rw [ht.env]
  cases t.env.spiAnswer bytes.length with
  | ok n => exact .ok (logPartial_blind _ n _ _ hwritten)
  | err e => exact .raised _ hwritten

theorem sendParams_blind (c : Config) (ps : List Byte) : BlindRun (sendParams c ps) := by
  induction ps with
  | nil => exact fun _ _ h => .ok h
  | cons p ps ih => exact fun s s' h => (sendByte_blind _ p s s' h).andThen ih

theorem sendCommand_blind (c : Config) (code : Byte) (ps : List Byte) : BlindRun (sendCommand c code ps) :=
  fun s s' h => (sendByte_blind _ code s s' h).andThen (sendParams_blind c ps)

theorem sendRows_blind (c : Config) (rows : List (List Byte)) : BlindRun (sendRows c rows) := by
  induction rows with
  | nil => exact fun _ _ h => .ok h
  | cons r rows ih => exact fun s s' h => (sendData_blind c r s s' h).andThen ih

theorem sendPlane_blind (c : Config) (code : Byte) (rows : List (List Byte)) : BlindRun (sendPlane c code rows) :=
  fun s s' h => (sendByte_blind _ code s s' h).andThen (sendRows_blind c rows)

theorem sendFrame_blind (c : Config) (black red : List (List Byte)) : BlindRun (sendFrame c black red) :=
  fun s s' h => ((sendPlane_blind c _ black s s' h).andThen (sendPlane_blind c _ red)).andThen (sendByte_blind _ _)

theorem holdRst_blind (c : Config) (lv : Level) : BlindRun (holdRst c lv) := by
  intro s s' h
  refine (lineWrite_blind .rst lv s s' h).andThen ?_
  rintro t _ ⟨dc, rst, err, rfl⟩
  exact .ok ⟨dc, rst, err, rfl⟩

theorem resetPulse_blind (c : Config) : BlindRun (resetPulse c) :=
  fun s s' h => ((holdRst_blind c _ s s' h).andThen (holdRst_blind c _)).andThen (holdRst_blind c _)

theorem exportLine_blind (l : Line) : BlindRun (exportLine l) := by
  rintro s _ ⟨dc, rst, err, rfl⟩
  simp only [exportLine]
  split
  · exact .ok ⟨dc, rst, err, rfl⟩
  · exact .raised _ ⟨dc, rst, err, rfl⟩

theorem setDirection_blind (l : Line) (d : Direction) : BlindRun (setDirection l d) := by
  rintro s _ ⟨dc, rst, err, rfl⟩
  simp only [setDirection]
  cases s.env.directionAnswer with
  | ok => exact .ok ⟨dc, rst, err, rfl⟩
  | err e => exact .raised _ ⟨dc, rst, err, rfl⟩

theorem configureSpi_blind (c : Config) : BlindRun (configureSpi c) := by
  rintro s _ ⟨dc, rst, err, rfl⟩
  simp only [configureSpi]
  split
  · exact .ok ⟨dc, rst, err, rfl⟩
  · exact .raised _ ⟨dc, rst, err, rfl⟩

theorem acquireAll_blind (c : Config) : BlindRun (acquireAll c) :=
  fun s s' h => ((((((exportLine_blind _ s s' h).andThen (exportLine_blind _)).andThen (exportLine_blind _)).andThen
    (setDirection_blind _ _)).andThen (setDirection_blind _ _)).andThen (setDirection_blind _ _)).andThen (configureSpi_blind c)

/-! ## Ends of an operation -/

theorem abortTo_blind (l : Life) (e : Error) : Blind (abortTo l e) := by
  rintro s _ ⟨dc, rst, err, rfl⟩
  exact ⟨dc, rst, stickyErr err e, rfl⟩

theorem abort_blind (start : Nat) (e : Error) : Blind (abort start e) := by
  rintro s _ ⟨dc, rst, err, rfl⟩
  exact ⟨dc, rst, stickyErr err e, rfl⟩

theorem giveBack_blind (r : OpResult) : Blind (giveBack r) := by
  rintro s _ ⟨dc, rst, err, rfl⟩
  exact ⟨dc, rst, err, rfl⟩

theorem setLife_blind (l : Life) : Blind (setLife l) := by
  rintro s _ ⟨dc, rst, err, rfl⟩
  exact ⟨dc, rst, err, rfl⟩

theorem refuse_blind : Blind refuse := by
  rintro s _ ⟨dc, rst, err, rfl⟩
  exact ⟨dc, rst, err, rfl⟩

theorem keepWaiting_blind (p : Pending) : Blind (keepWaiting p) := by
  rintro s _ ⟨dc, rst, err, rfl⟩
  exact ⟨dc, rst, err, rfl⟩

theorem setInbox_blind (l : List HostMove) : Blind (setInbox l) := by
  rintro s _ ⟨dc, rst, err, rfl⟩
  exact ⟨dc, rst, err, rfl⟩

theorem setMem_blind (sp : Space) (m : Memory) : Blind (setMem sp m) := by
  rintro s _ ⟨dc, rst, err, rfl⟩
  cases sp <;> exact ⟨dc, rst, err, rfl⟩

theorem discardPlane_blind (col : Colour) : Blind (discardPlane col) := setMem_blind col.planeSpace []

theorem discardFor_blind (op : Waiting) : Blind (discardFor op) := by
  cases op
  case printImage => exact (discardPlane_blind .red).comp (discardPlane_blind .black)
  all_goals exact fun _ _ h => h

theorem RunsAlike.settle (start : Nat) {f : State → State} (hf : Blind f) {r r' : Run} (h : RunsAlike r r') :
    Alike (settle start f r) (settle start f r') := by
  cases h with
  | ok h => exact giveBack_blind _ _ _ (hf _ _ h)
  | raised e h => exact abort_blind start e _ _ h

theorem conclude_blind (c : Config) (p : Pending) : Blind (conclude c p) := by
  obtain ⟨op, start⟩ := p
  intro s s' h
  cases op
  case firstSequence => exact (sendCommand_blind c _ _ s s' h).settle start (setLife_blind _)
  case close => exact (sendCommand_blind c _ _ s s' h).settle start (setLife_blind _)
  case printImage => exact giveBack_blind _ _ _ (discardFor_blind .printImage s s' h)
  all_goals exact giveBack_blind _ s s' h

theorem PollsAlike.settlePoll (c : Config) (p : Pending) {r r' : Poll} (h : PollsAlike r r') :
    Alike (settlePoll c p r) (settlePoll c p r') := by
  cases h with
  | ready h => exact conclude_blind c p _ _ h
  | again h => exact keepWaiting_blind p _ _ h
  | raised e h => exact abort_blind _ e _ _ (discardFor_blind p.op _ _ h)

theorem judge_blind (c : Config) (a : BusyAnswer) {s s' : State} (h : Alike s s') : PollsAlike (judge c a s) (judge c a s') := by
  obtain ⟨dc, rst, err, rfl⟩ := h
  cases a with
  | err e => exact .raised _ ⟨dc, rst, err, rfl⟩
  | level v =>
    simp only [judge]
    split
    · exact .ready ⟨dc, rst, err, rfl⟩
    split
    · exact .again ⟨dc, rst, err, rfl⟩
    · exact .raised _ ⟨dc, rst, err, rfl⟩

theorem pollAll_blind (c : Config) (l : List BusyAnswer) {s s' : State} (h : Alike s s') :
    PollsAlike (pollAll c l s) (pollAll c l s') := by
  induction l generalizing s s' with
  | nil => exact .again h
  | cons a l ih =>
    have hset : Alike (setBusy l s) (setBusy l s') := by
      obtain ⟨dc, rst, err, rfl⟩ := h; exact ⟨dc, rst, err, rfl⟩
    have hj := judge_blind c a hset
    rw [pollAll, pollAll]
    generalize judge c a (setBusy l s) = r, judge c a (setBusy l s') = r' at hj
    cases hj with
    | ready h => exact .ready h
    | again h => exact ih h
    | raised e h => exact .raised e h

theorem enterWait_blind (c : Config) (p : Pending) : Blind (enterWait c p) := by
  intro s s' h
  unfold enterWait
  rw [h.env]
  exact (pollAll_blind c _ h).settlePoll c p

theorem resumeWait_blind (c : Config) (p : Pending) : Blind (resumeWait c p) := by
  intro s s' h
  unfold resumeWait
  rw [h.env]
  split
  · have hdrawn : Alike (setEnv s.env.drawn s) (setEnv s.env.drawn s') := by
      obtain ⟨dc, rst, err, rfl⟩ := h; exact ⟨dc, rst, err, rfl⟩
    exact (judge_blind c _ hdrawn).settlePoll c p
  · exact enterWait_blind c p s s' h

theorem RunsAlike.thenWait (c : Config) (p : Pending) {r r' : Run} (h : RunsAlike r r') : Alike (thenWait c p r) (thenWait c p r') := by
  cases h with
  | ok h => exact enterWait_blind c p _ _ h
  | raised e h => exact abort_blind _ e _ _ (discardFor_blind p.op _ _ h)

/-! ## Operations -/

theorem sample_alike (c : Config) (col : Colour) {s s' : State} (h : Alike s s') : sample c col s' = sample c col s := by
  funext y x
  exact readByte_congr _ _ _ _ (h.mem _)

theorem planeRows_alike (c : Config) (col : Colour) {s s' : State} (h : Alike s s') : planeRows c col s' = planeRows c col s := by
  unfold planeRows planeByte
  simp only [readByte_congr _ _ _ _ (h.mem _)]

theorem primitive_blind {f : State → Run} (hf : BlindRun f) : Blind (primitive f) := by
  intro s s' h
  unfold primitive
  rw [h.hist]
  exact (hf s s' h).settle _ fun _ _ h => h

theorem waits_blind (c : Config) (op : Waiting) {f : State → Run} (hf : BlindRun f) :
    Blind fun s => thenWait c ⟨op, s.hist.length⟩ (f s) := by
  intro s s' h
  simp only [h.hist]
  exact (hf s s' h).thenWait c _

theorem encodeInto_blind (c : Config) (src dst : Colour) : Blind (encodeInto c src dst) := by
  intro s s' h
  have hsample := sample_alike c src h
  have hmem := h.mem dst.planeSpace
  obtain ⟨dc, rst, err, rfl⟩ := h
  unfold encodeInto
  rw [hsample, hmem]
  cases dst <;> exact ⟨dc, rst, err, rfl⟩

theorem sendSource_blind (c : Config) (code : Byte) (dst : Colour) (p : PlaneSource) : Blind (sendSource c code dst p) := by
  cases p with
  | white => exact primitive_blind (sendPlane_blind c code _)
  | stripe n => exact primitive_blind (sendPlane_blind c code _)
  | encoded r =>
    intro s s' h
    have hencoded := encodeInto_blind c r.space dst s s' h
    simp only [sendSource, sendEncoded]
    rw [h.hist, planeRows_alike c dst hencoded]
    split
    · exact abort_blind _ _ s s' h
    · exact discardPlane_blind dst _ _ ((sendPlane_blind c code _ _ _ hencoded).settle _ fun _ _ h => h)

theorem printPlanes_blind (c : Config) (r : RasterArg) (red : Option RasterArg) : Blind (printPlanes c r red) := by
  intro s s' h
  have hred : Blind (encodeRed c red) := by
    cases red with
    | none => exact fun _ _ h => h
    | some q => exact encodeInto_blind c q.space .red
  have hencoded := hred _ _ (encodeInto_blind c r.space .black s s' h)
  have hrows : redRows c red (encodeRed c red (encodeInto c r.space .black s')) =
      redRows c red (encodeRed c red (encodeInto c r.space .black s)) := by
    cases red with
    | none => rfl
    | some q => exact planeRows_alike c .red hencoded
  simp only [printPlanes]
  rw [h.hist, planeRows_alike c .black hencoded, hrows]
  exact (sendFrame_blind c _ _ _ _ hencoded).thenWait c _

theorem printImage_blind (c : Config) (r : RasterArg) (red : Option RasterArg) : Blind (printImage c r red) := by
  intro s s' h
  unfold printImage
  rw [h.hist]
  split
  · exact abort_blind _ _ s s' h
  split
  · exact abort_blind _ _ s s' h
  · exact printPlanes_blind c r red s s' h

theorem encodePlane_blind (c : Config) (r : RasterArg) : Blind (encodePlane c r) := by
  intro s s' h
  unfold encodePlane
  rw [h.hist, sample_alike c r.space h]
  split
  · exact abort_blind _ _ s s' h
  · exact giveBack_blind _ _ _ (discardPlane_blind _ _ _ (encodeInto_blind c _ _ s s' h))

theorem initialiseLines_blind (c : Config) : Blind (initialiseLines c) := by
  intro s s' h
  have hacquired := acquireAll_blind c s s' h
  unfold initialiseLines
  generalize acquireAll c s = r, acquireAll c s' = r' at hacquired
  cases hacquired with
  | ok h => exact giveBack_blind _ _ _ (setLife_blind _ _ _ h)
  | raised e h => exact abortTo_blind _ e _ _ h

theorem resetPanel_blind (c : Config) : Blind (resetPanel c) := by
  intro s s' h
  unfold resetPanel
  rw [h.hist]
  exact (resetPulse_blind c s s' h).settle _ (setLife_blind _)

theorem firstSequence_blind (c : Config) : Blind (firstSequence c) :=
  waits_blind c .firstSequence fun s s' h => (sendCommand_blind c _ _ s s' h).andThen (sendByte_blind _ _)

theorem waitBusy_blind (c : Config) : Blind (waitBusy c) := by
  intro s s' h
  unfold waitBusy
  rw [h.hist]
  exact enterWait_blind c _ s s' h

theorem meaning_blind (i : Instr) : Blind (meaning i) := by
  cases i
  case panelSetting => exact primitive_blind (sendCommand_blind _ _ _)
  case powerOff => exact waits_blind _ .powerOff (sendByte_blind _ _)
  case powerOn => exact waits_blind _ .powerOn (sendByte_blind _ _)
  case boosterSoftStart => exact primitive_blind (sendCommand_blind _ _ _)
  case deepSleep => exact primitive_blind (sendCommand_blind _ _ _)
  case dataBlack p => exact sendSource_blind _ _ _ p
  case displayRefresh => exact waits_blind _ .displayRefresh (sendByte_blind _ _)
  case dataRed p => exact sendSource_blind _ _ _ p
  case initialise => exact initialiseLines_blind _
  case reset => exact resetPanel_blind _
  case sendCommandByte b => exact primitive_blind (sendByte_blind _ b)
  case sendDataByte b => exact primitive_blind (sendByte_blind _ b)
  case sendData bs => exact primitive_blind (sendData_blind _ bs)
  case waitBusy => exact waitBusy_blind _
  case firstSequence => exact firstSequence_blind _
  case clearDisplay => exact waits_blind _ .clearDisplay (sendFrame_blind _ _ _)
  case printTricolor => exact waits_blind _ .printTricolor (sendFrame_blind _ _ _)
  case printImage r red => exact printImage_blind _ r red
  case close => exact waits_blind _ .close (sendByte_blind _ _)
  case encodePlane r => exact encodePlane_blind _ r

theorem operation_blind (lives : List Life) {body : State → State} (hbody : Blind body) : Blind (operation lives body) := by
  intro s s' h
  unfold operation
  rw [h.inProgress, h.life]
  split
  · exact hbody s s' h
  · exact refuse_blind s s' h

/-! ## ENC's stream and HOST's moves -/

theorem setEnc_blind (e : Enc) : Blind (setEnc e) := by
  rintro s _ ⟨dc, rst, err, rfl⟩
  exact ⟨dc, rst, err, rfl⟩

theorem putOut_blind (o : EncOut) : Blind (putOut o) := by
  rintro s _ ⟨dc, rst, err, rfl⟩
  exact ⟨dc, rst, err, rfl⟩

theorem encEmit_blind (c : Config) : Blind (encEmit c) := by
  intro s s' h
  unfold encEmit
  rw [h.enc, h.mem]
  exact putOut_blind _ _ _ (setMem_blind _ _ s s' h)

theorem encFinish_blind (c : Config) : Blind (encFinish c) := by
  rintro s _ ⟨dc, rst, err, rfl⟩
  exact ⟨dc, rst, err, rfl⟩

theorem encAdvance_blind (c : Config) : Blind (encAdvance c) := by
  intro s s' h
  have hmoved (e : Enc) := setEnc_blind e _ _ (encEmit_blind c s s' h)
  unfold encAdvance
  rw [h.enc]
  split
  · exact hmoved _
  split
  · exact hmoved _
  · exact encFinish_blind c _ _ (hmoved _)

theorem encPixel_blind (c : Config) (px : Byte) : Blind (encPixel c px) := by
  intro s s' h
  have hshifted (e : Enc) := setEnc_blind e s s' h
  unfold encPixel
  rw [h.enc]
  split
  · split
    · exact hshifted _
    · exact encAdvance_blind c _ _ (hshifted _)
  · exact refuse_blind s s' h

theorem encStart_blind (c : Config) (col : Colour) (w ht : Nat) : Blind (encStart c col w ht) := by
  intro s s' h
  unfold encStart
  rw [h.inProgress, h.hist]
  split
  · exact refuse_blind s s' h
  split
  · exact abort_blind _ _ s s' h
  · exact setEnc_blind _ s s' h

theorem supplyRaster_blind (col : Colour) (bs : List Byte) : Blind (supplyRaster col bs) := by
  intro s s' h
  unfold supplyRaster
  rw [h.inProgress]
  split
  · exact refuse_blind s s' h
  · exact setMem_blind _ _ s s' h

/-- A function of the machine answers alike states with alike next states. -/
def BlindOutcome (f : State → Host.Outcome State Fault Refusal) : Prop :=
  ∀ s s', Alike s s' → ∃ t t', f s = .next t ∧ f s' = .next t' ∧ Alike t t'

theorem Blind.outcome {f : State → State} (hf : Blind f) : BlindOutcome fun s => .next (f s) :=
  fun s s' h => ⟨_, _, rfl, rfl, hf s s' h⟩

theorem exec_blind (i : Instr) : BlindOutcome (exec i) := by
  intro s s' h
  rw [exec_eq_operation, exec_eq_operation]
  exact (operation_blind _ (meaning_blind i)).outcome s s' h

theorem runMove_blind (m : HostMove) : BlindOutcome (runMove m) := by
  cases m with
  | call c =>
    intro s s' h
    simp only [runMove]
    split
    · exact exec_blind _ s s' h
    · exact refuse_blind.outcome s s' h
  | await => exact Blind.outcome fun _ _ h => h
  | supply col bs => exact (supplyRaster_blind col bs).outcome
  | start col w ht => exact (encStart_blind _ col w ht).outcome
  | pixIn px => exact (encPixel_blind _ px).outcome

/-- What a step is, a poll, a move or nothing, does not hang on the three (`step_cases`). -/
theorem step_blind : BlindOutcome step := by
  intro s s' h
  rcases step_cases s with ⟨p, hp, hwaits, hs⟩ | ⟨m, rest, hinbox, hmoves, hs⟩ | ⟨hinbox, hnone, hs⟩ <;> rw [hs]
  · rw [step_polls (h.pending.trans hp) (h.hostWaits.trans hwaits)]
    exact (resumeWait_blind _ p).outcome s s' h
  · rw [step_moves (h.inbox.trans hinbox) (hmoves.imp_left h.pending.trans)]
    exact runMove_blind m _ _ (setInbox_blind rest s s' h)
  · rw [step_rests (h.inbox.trans hinbox) (h.pending.trans hnone)]
    exact ⟨s, s', rfl, rfl, h⟩

/-- Settles O50: every instruction and every step is blind to the three. -/
theorem reportedLevelsAndErrorAreNeverRead : Obligations.ReportedLevelsAndErrorAreNeverRead := by
  unfold Obligations.ReportedLevelsAndErrorAreNeverRead
  intro f s dc rst err hf
  have hblind : BlindOutcome f := by
    rcases hf with ⟨i, rfl⟩ | rfl
    · exact exec_blind i
    · exact step_blind
  obtain ⟨t, t', hnext, hnext', dc', rst', err', rfl⟩ := hblind s _ ⟨dc, rst, err, rfl⟩
  exact ⟨t, dc', rst', err', hnext, hnext'⟩

end Sys2Proof.Machine
end

section
/-! PROOFS. The histories: what every step appends to the wire history, the results and the channels' record (R32, R55, R56). -/
namespace Sys2Proof.Machine

/-- The wire history grows by a framed block, the results and the channels' record at their end, and the refusal mark stays. -/
structure Grows (s t : State) : Prop where
  hist : ∃ l, t.hist = s.hist ++ l ∧ Block l
  returns : s.returns <+: t.returns
  chan : s.chan <+: t.chan
  refused : s.refused = true → t.refused = true

theorem Grows.trans {s t u : State} (h : Grows s t) (h' : Grows t u) : Grows s u := by
  obtain ⟨l, hl, hblock⟩ := h.hist
  obtain ⟨l', hl', hblock'⟩ := h'.hist
  exact ⟨⟨l ++ l', by rw [hl', hl, List.append_assoc], hblock.append hblock'⟩, h.returns.trans h'.returns, h.chan.trans h'.chan,
    fun hr => h'.refused (h.refused hr)⟩

/-- No event, no result. -/
theorem Grows.of_quiet {s t : State} (hhist : t.hist = s.hist) (hreturns : t.returns = s.returns) (hchan : s.chan <+: t.chan)
    (hrefused : s.refused = true → t.refused = true) : Grows s t :=
  ⟨⟨[], by rw [hhist, List.append_nil], Block.nil⟩, by rw [hreturns], hchan, hrefused⟩

theorem Grows.refl (s : State) : Grows s s := .of_quiet rfl rfl List.prefix_rfl id

theorem EndsAs.returns_grow {start : Nat} {okLife badLife : Life} {s t : State} (h : EndsAs start okLife badLife s t) :
    s.returns <+: t.returns := by
  cases h with
  | ok r _ hret => rw [hret]; exact List.prefix_append _ _
  | err e hret => rw [hret]; exact List.prefix_append _ _
  | wait op hret => rw [hret]

/-- An operation, issued or taken up again, however it ends. -/
theorem Grows.of_ends {start : Nat} {okLife badLife : Life} {s t : State} (h : EndsAs start okLife badLife s t ∧ Keeps s t) : Grows s t :=
  ⟨h.2.hist, h.1.returns_grow, h.2.chan, fun hr => h.2.refused.trans hr⟩

theorem refuse_grows (s : State) : Grows s (refuse s) := .of_quiet rfl rfl List.prefix_rfl fun _ => rfl

theorem exec_grows {i : Instr} {s t : State} (h : exec i s = .next t) : Grows s t := by
  by_cases hadm : Idle s ∧ s.seq.life ∈ admittedIn i
  · rw [exec_admitted hadm.1 hadm.2] at h; cases h
    exact .of_ends (meaning_ends i s hadm.2)
  · rw [exec_refused hadm] at h; cases h
    exact refuse_grows s

theorem setEnc_grows (e : Enc) (s : State) : Grows s (setEnc e s) := .of_quiet rfl rfl List.prefix_rfl id

theorem encEmit_grows (c : Config) (s : State) : Grows s (encEmit c s) :=
  .of_quiet (by simp [encEmit]) (by simp [encEmit]) (by simp [encEmit]) (by simp [encEmit])

theorem encFinish_grows (c : Config) (s : State) : Grows s (encFinish c s) := .of_quiet rfl rfl (List.prefix_append _ _) id

theorem encAdvance_grows (c : Config) (s : State) : Grows s (encAdvance c s) := by
  have hemit (e : Enc) : Grows s (setEnc e (encEmit c s)) := (encEmit_grows c s).trans (setEnc_grows e _)
  unfold encAdvance
  split
  · exact hemit _
  split
  · exact hemit _
  · exact (hemit _).trans (encFinish_grows c _)

theorem encPixel_grows (c : Config) (px : Byte) (s : State) : Grows s (encPixel c px s) := by
  unfold encPixel
  split
  · split
    · exact setEnc_grows _ s
    · exact (setEnc_grows _ s).trans (encAdvance_grows c _)
  · exact refuse_grows s

theorem encStart_grows (c : Config) (col : Colour) (w h : Nat) (s : State) : Grows s (encStart c col w h s) := by
  unfold encStart
  split
  · exact refuse_grows s
  split
  · exact .of_ends (abort_ends (okL := s.seq.life) (Inside.refl s))
  · exact setEnc_grows _ s

theorem supplyRaster_grows (col : Colour) (bs : List Byte) (s : State) : Grows s (supplyRaster col bs s) := by
  unfold supplyRaster
  split
  · exact refuse_grows s
  · exact .of_quiet (by simp) (by simp) (by simp) (by simp)

theorem runMove_grows {m : HostMove} {s t : State} (h : runMove m s = .next t) : Grows s t := by
  cases m with
  | call c =>
    rw [runMove] at h
    split at h
    · exact exec_grows h
    · cases h; exact refuse_grows s
  | await => cases h; exact Grows.refl s
  | supply col bs => cases h; exact supplyRaster_grows col bs s
  | start col w hh => cases h; exact encStart_grows _ col w hh s
  | pixIn px => cases h; exact encPixel_grows _ px s

/-- By the three things a step can be, a further poll, a move of HOST, or nothing. -/
theorem step_grows {s t : State} (h : step s = .next t) : Grows s t := by
  rcases step_cases s with ⟨p, -, -, hstep⟩ | ⟨m, rest, -, -, hstep⟩ | ⟨-, -, hstep⟩ <;> rw [hstep] at h
  · cases h; exact .of_ends (resumeWait_ends Config.hw p s)
  · have hmove : Grows (setInbox rest s) t := runMove_grows h
    exact ⟨hmove.hist, hmove.returns, hmove.chan, hmove.refused⟩
  · cases h; exact Grows.refl s

/-- Settles O44: what a step appends (`step_grows`), read off each record. -/
theorem historiesOnlyGrow : Obligations.HistoriesOnlyGrow := by
  unfold Obligations.HistoriesOnlyGrow
  intro s t h
  obtain ⟨⟨l, hl, -⟩, hreturns, hchan, hrefused⟩ := step_grows h
  exact ⟨⟨l, hl.symm⟩, hreturns, hchan, hrefused⟩

/-- Settles O45: the events a step appends are framed among themselves (`Block`), whatever stands before them. -/
theorem dcLineIsWrittenBeforeEveryTransaction : Obligations.DcLineIsWrittenBeforeEveryTransaction := by
  unfold Obligations.DcLineIsWrittenBeforeEveryTransaction
  intro s t hframed h
  obtain ⟨l, hl, hblock⟩ := (step_grows h).hist
  rw [hl]
  exact dcFramed_append _ _ _ hframed hblock

end Sys2Proof.Machine
end

section
/-! PROOFS. The address spaces: what a supplied raster reads back as, and where PRINT_IMAGE stores its planes -/
namespace Sys2Proof.Machine

/-! ## A raster HOST supplies (R41, R58, R177) -/

theorem supplyRaster_of_idle {s : State} (h : Idle s) (col : Colour) (bs : List Byte) :
    supplyRaster col bs s = setMem col.rasterSpace (Memory.writeAll [] 0 bs) s := by
  obtain ⟨hpending, hactive⟩ := h
  simp [supplyRaster, inProgress, hpending, hactive]

/-- A space that holds bytes from address 0 and nothing else: past them an address reads as the open value. -/
theorem readByte_setMem_writeAll_nil (sp : Space) (bs : List Byte) (s : State) (a : Nat) :
    readByte sp (setMem sp (Memory.writeAll [] 0 bs) s) a = bs[a]?.getD (Config.unwritten sp a) := by
  rw [readByte, memOf_setMem_same, Memory.find_writeAll]
  by_cases ha : a < bs.length
  · simp [ha]
  · simp [ha, Memory.find]

/-- While an operation stands in its WAIT_BUSY a step changes no raster, and takes no move if HOST waits (R16, R186). -/
theorem step_of_pending {p : Pending} {s t : State} (hp : s.pending = some p) (h : step s = .next t) :
    t.rasterK = s.rasterK ∧ t.rasterR = s.rasterR ∧ (hostWaits s = true → t.inbox = s.inbox) := by
  obtain ⟨hrK, hrR⟩ := rastersChangeOnlyByHost s t h fun hnone => by rw [hp] at hnone; cases hnone
  refine ⟨hrK, hrR, fun hwaits => ?_⟩
  rw [step_polls hp hwaits] at h; cases h
  exact (resumeWait_ends Config.hw p s).2.inbox

/-- Settles O49: a supply taken between operations is one `setMem` of a fresh memory; in a WAIT_BUSY by `step_of_pending`. -/
theorem hostSuppliesRastersBetweenOperations : Obligations.HostSuppliesRastersBetweenOperations := by
  unfold Obligations.HostSuppliesRastersBetweenOperations
  refine ⟨fun col bs rest s hidle hinbox => ?_, fun p s t hp h => step_of_pending hp h⟩
  have hstep : step s = .next (setMem col.rasterSpace (Memory.writeAll [] 0 bs) (setInbox rest s)) := by
    rw [step_moves hinbox (.inr nofun), runMove, supplyRaster_of_idle (s := setInbox rest s) hidle]
  refine ⟨_, hstep, fun a b hb => ?_, fun a ha => ?_, fun sp hsp => ?_, ?_⟩
  · rw [readByte_setMem_writeAll_nil, hb, Option.getD_some]
  · rw [readByte_setMem_writeAll_nil, List.getElem?_eq_none ha, Option.getD_none]
  · rw [memOf_setMem_other _ _ _ _ hsp]
    cases sp <;> rfl
  · simp

/-! ## The planes PRINT_IMAGE stores (R42, R91, R94, R139) -/

/-- Past the last byte of a plane ENC writes nothing (R54). -/
theorem readByte_encodeInto_past (c : Config) (src dst : Colour) (s : State) {a : Nat} (ha : c.height * c.bytesPerRow ≤ a) :
    readByte dst.planeSpace (encodeInto c src dst s) a = readByte dst.planeSpace s a := by
  rw [readByte, encodeInto_memOf_same, Memory.find_writeAll, if_neg (by rw [encodeRaster_flatten_length]; omega), readByte]

/-- ENC writes no raster, so a second encode reads the samples the first one found (R96). -/
theorem sample_encodeInto (c : Config) (col src dst : Colour) (s : State) : sample c col (encodeInto c src dst s) = sample c col s := by
  funext y x
  exact readByte_congr _ _ _ _ (encodeInto_memOf_other _ _ _ _ _ (by cases col <;> cases dst <;> decide))

/-- Both planes encoded, nothing sent yet (R139). -/
def planesEncoded (r : RasterArg) (red : Option RasterArg) (s : State) : State :=
  encodeRed Config.hw red (encodeInto Config.hw r.space .black s)

theorem planesEncoded_inside (r : RasterArg) (red : Option RasterArg) (s : State) : Inside s (planesEncoded r red s) :=
  (encodeInto_inside _ r.space .black s).trans (encodeRed_inside _ red _)

theorem planesEncoded_env (r : RasterArg) (red : Option RasterArg) (s : State) : (planesEncoded r red s).env = s.env := by
  cases red <;> simp [planesEncoded, encodeRed]

/-- The red raster's encode does not touch PLANE_K. -/
theorem planesEncoded_planeK (r : RasterArg) (red : Option RasterArg) (s : State) :
    memOf .planeK (planesEncoded r red s) = memOf .planeK (encodeInto Config.hw r.space .black s) := by
  cases red with
  | none => rfl
  | some q => exact encodeInto_memOf_other _ _ .red _ .planeK (by decide)

/-- PLANE_K holds the encoding of the first raster (R91, R94). -/
theorem planesEncoded_readK (r : RasterArg) (red : Option RasterArg) (s : State) {y k : Nat} (hy : y < 300) (hk : k < 50) :
    readByte .planeK (planesEncoded r red s) (y * 50 + k) = encodeGroup Config.hw (sample Config.hw r.space s) y k := by
  rw [readByte_congr _ _ _ _ (planesEncoded_planeK r red s)]
  exact encodeInto_planeByte Config.hw r.space .black s y k hy hk

/-- Without a red raster PLANE_R is not written (R94). -/
theorem planesEncoded_readR_none (r : RasterArg) (s : State) (a : Nat) :
    readByte .planeR (planesEncoded r none s) a = readByte .planeR s a :=
  readByte_congr _ _ _ _ (encodeInto_memOf_other _ _ .black _ .planeR (by decide))

/-- With one it holds its encoding (R91, R94). -/
theorem planesEncoded_readR_some (r q : RasterArg) (s : State) {y k : Nat} (hy : y < 300) (hk : k < 50) :
    readByte .planeR (planesEncoded r (some q) s) (y * 50 + k) = encodeGroup Config.hw (sample Config.hw q.space s) y k := by
  rw [← sample_encodeInto Config.hw q.space r.space .black s]
  exact encodeInto_planeByte Config.hw q.space .red _ y k hy hk

theorem planesEncoded_readK_past (r : RasterArg) (red : Option RasterArg) (s : State) {a : Nat} (ha : 15000 ≤ a) :
    readByte .planeK (planesEncoded r red s) a = readByte .planeK s a := by
  rw [readByte_congr _ _ _ _ (planesEncoded_planeK r red s)]
  exact readByte_encodeInto_past Config.hw r.space .black s ha

theorem planesEncoded_readR_past (r : RasterArg) (red : Option RasterArg) (s : State) {a : Nat} (ha : 15000 ≤ a) :
    readByte .planeR (planesEncoded r red s) a = readByte .planeR s a := by
  cases red with
  | none => exact planesEncoded_readR_none r s a
  | some q => exact (readByte_encodeInto_past Config.hw q.space .red _ ha).trans (planesEncoded_readR_none r s a)

/-! ## PRINT_IMAGE on the ideal platform (R139) -/

theorem validateArg_of_panelSized {r : RasterArg} (h : PanelSized r) : validateArg Config.hw r = none := by
  obtain ⟨hw, hh⟩ := h
  simp [validateArg, validate, hw, hh, hw_width, hw_height]

theorem validateOpt_of_panelSized {red : Option RasterArg} (h : ∀ q, red = some q → PanelSized q) : validateOpt Config.hw red = none := by
  cases red with
  | none => rfl
  | some q => exact validateArg_of_panelSized (h q rfl)

theorem ne_nil_of_length_height {rows : List (List Byte)} (h : rows.length = Config.hw.height) : rows ≠ [] :=
  List.ne_nil_of_length_pos (h ▸ hw_fits.h)

/-- What PRINT_IMAGE has sent when it enters its WAIT_BUSY: both planes and the refresh command (R139). -/
def frameSent (r : RasterArg) (red : Option RasterArg) (s : State) : State :=
  sent .low (frameEvents (planeRows Config.hw .black (planesEncoded r red s)) (redRows Config.hw red (planesEncoded r red s)))
    (planesEncoded r red s)

theorem printImage_ideal {r : RasterArg} {red : Option RasterArg} {s : State} (hcalls : IdealCalls s) (hr : PanelSized r)
    (hred : ∀ q, red = some q → PanelSized q) :
    printImage Config.hw r red s = enterWait Config.hw ⟨.printImage, s.hist.length⟩ (frameSent r red s) := by
  have hideal : IdealCalls (planesEncoded r red s) := by rw [IdealCalls, planesEncoded_env]; exact hcalls
  have hblack : planeRows Config.hw .black (planesEncoded r red s) ≠ [] := ne_nil_of_length_height (by simp [planeRows])
  have hredRows : redRows Config.hw red (planesEncoded r red s) ≠ [] :=
    ne_nil_of_length_height (by cases red <;> simp [redRows, planeRows])
  have hsend := sendFrame_ideal hideal _ _ hblack hredRows
  simp only [printImage, validateArg_of_panelSized hr, validateOpt_of_panelSized hred]
  exact congrArg (thenWait Config.hw ⟨.printImage, s.hist.length⟩) hsend

/-! Sending and polling write no memory. -/

theorem memOf_sent (sp : Space) (lv : Level) (l : List Event) (s : State) : memOf sp (sent lv l s) = memOf sp s := by cases sp <;> rfl

theorem memOf_waited (sp : Space) (rest : List BusyAnswer) (l : List Event) (s : State) :
    memOf sp (waited rest l s) = memOf sp s := by cases sp <;> rfl

theorem memOf_keepWaiting (sp : Space) (p : Pending) (s : State) : memOf sp (keepWaiting p s) = memOf sp s := by cases sp <;> rfl

/-- WAIT_BUSY entered with samples at hand that all read busy (R115, R117). -/
theorem enterWait_of_busy {j : Nat} {s : State} (h : s.env.busySamples = busySamples j) (p : Pending) :
    enterWait Config.hw p s = keepWaiting p (waited [] (busyEvents j) s) := by
  rw [enterWait, h, pollAll_still j s h, settlePoll]

/-- Settles O32: PRINT_IMAGE stands in its WAIT_BUSY with the planes as its two encodes left them; sending and polling write no
memory. -/
theorem printImageStoresThePlanes : Obligations.PrintImageStoresThePlanes := by
  unfold Obligations.PrintImageStoresThePlanes
  intro j r red s hidle hlife hcalls hbusy hr hred
  have hsamples : (frameSent r red s).env.busySamples = busySamples j := by
    rw [← hbusy, ← planesEncoded_env r red s]; rfl
  have hexec : exec (.printImage r red) s =
      .next (keepWaiting ⟨.printImage, s.hist.length⟩ (waited [] (busyEvents j) (frameSent r red s))) := by
    rw [exec_admitted hidle (hlife ▸ List.mem_singleton_self _), meaning, printImage_ideal hcalls hr hred,
      enterWait_of_busy hsamples]
  have hread (sp : Space) (a : Nat) : readByte sp (keepWaiting ⟨.printImage, s.hist.length⟩
      (waited [] (busyEvents j) (frameSent r red s))) a = readByte sp (planesEncoded r red s) a :=
    readByte_congr _ _ _ _ (by rw [memOf_keepWaiting, memOf_waited, frameSent, memOf_sent])
  have hinside := planesEncoded_inside r red s
  refine ⟨_, hexec, rfl, hinside.returns, fun y k hy hk => ⟨?_, ?_⟩, fun a ha => ⟨?_, ?_⟩, hinside.rasterK, hinside.rasterR⟩
  · rw [hread, planesEncoded_readK r red s hy hk]
  · rw [hread]
    cases red with
    | none => exact planesEncoded_readR_none r s _
    | some q => exact planesEncoded_readR_some r q s hy hk
  · rw [hread, planesEncoded_readK_past r red s ha]
  · rw [hread, planesEncoded_readR_past r red s ha]

end Sys2Proof.Machine
end

section
/-! PROOFS. The order in which the bits of an encoded row leave the block (R46, R67) -/
namespace Sys2Proof.Machine

/-- The byte of eight pixels, sent bit 7 first, gives their bits in the pixels' order (R88, R89). -/
theorem wireBits_pack8 (p0 p1 p2 p3 p4 p5 p6 p7 : Byte) :
    wireBits Config.hw (pack8 Config.hw p0 p1 p2 p3 p4 p5 p6 p7) = [p0, p1, p2, p3, p4, p5, p6, p7].map (bit Config.hw) := by
  have hmsb : Config.hw.spiMsbFirst = true := rfl
  simp only [wireBits, hmsb, if_true, pack8, List.map]
  generalize bit Config.hw p0 = b0; generalize bit Config.hw p1 = b1; generalize bit Config.hw p2 = b2
  generalize bit Config.hw p3 = b3; generalize bit Config.hw p4 = b4; generalize bit Config.hw p5 = b5
  generalize bit Config.hw p6 = b6; generalize bit Config.hw p7 = b7
  revert b0 b1 b2 b3 b4 b5 b6 b7
  decide

theorem wireBits_encodeGroup (R : Nat → Nat → Byte) (y k : Nat) :
    wireBits Config.hw (encodeGroup Config.hw R y k) = (List.range 8).map fun j => bit Config.hw (R y (8 * k + j)) :=
  wireBits_pack8 _ _ _ _ _ _ _ _

/-- Groups of `g` laid one after the other are the whole run. -/
theorem flatMap_range_groups {α : Type} (f : Nat → α) (g n : Nat) :
    ((List.range n).flatMap fun k => (List.range g).map fun j => f (g * k + j)) = (List.range (g * n)).map f := by
  induction n with
  | zero => simp
  | succ n ih =>
    rw [List.range_succ, List.flatMap_append, ih, Nat.mul_succ, List.range_add, List.map_append, List.map_map]
    simp [Function.comp_def]

/-- Settles O8: byte `k` gives the bits of pixels `8 k` to `8 k + 7`, and the fifty groups laid in order are the row. -/
theorem wireCarriesPixelsInColumnOrder : Obligations.WireCarriesPixelsInColumnOrder := by
  unfold Obligations.WireCarriesPixelsInColumnOrder
  intro R y
  rw [encodeRow, List.flatMap_map]
  simp only [wireBits_encodeGroup]
  exact flatMap_range_groups (fun x => bit Config.hw (R y x)) 8 50

end Sys2Proof.Machine
end

section
/-! PROOFS. The decoder and the encoder are inverse to each other (R69, R76, R77), and what the decoder rejects (R72, R78). -/
namespace Sys2Proof

/-! ## Decoding an encoding -/

theorem checked_of_wellFormed {i : Instr} (h : i.wellFormed = true) : checked i = .ok i := if_pos h

theorem checked_eq_ok {i j : Instr} (h : checked i = .ok j) : i = j ∧ i.wellFormed = true := by
  unfold checked at h
  split at h
  next hwf => exact ⟨Except.ok.inj h, hwf⟩
  next => cases h

/-- Every code selects the row it was written for and every operand is read as it was written, so that only the check is left. -/
theorem decode_encode (i : Instr) : decode (encode i) = checked i := by
  cases i with
  | printImage _ red => cases red <;> rfl
  | _ => rfl

/-- Settles O51: what the encoder wrote is read back, and a well-formed instruction passes the check. -/
theorem decodeOfEncodeIsTheInstruction : Obligations.DecodeOfEncodeIsTheInstruction := by
  unfold Obligations.DecodeOfEncodeIsTheInstruction
  intro i hwf
  rw [decode_encode, checked_of_wellFormed hwf]

/-! ## Encoding what was decoded

`call` is a code waiting for its operands. Each reader of operands accepts exactly the shape that the encoder writes: if the
row's encoding is `call` of that shape, the instruction read from `a` encodes as `call a`. -/

section
variable {call : Args → Call} {a : Args} {i : Instr}

theorem encode_of_withNone {j : Instr} (hj : encode j = call .empty) (h : withNone a j = .ok i) : encode i = call a := by
  unfold withNone at h
  split at h
  next ha => cases h; rw [ha, hj]
  next => cases h

theorem encode_of_withByte {f : Byte → Instr} (hf : ∀ b, encode (f b) = call ⟨[b], [], none⟩) (h : withByte a f = .ok i) :
    encode i = call a := by
  unfold withByte at h
  split at h
  next b => cases h; exact hf b
  next => cases h

theorem encode_of_withBytes {f : List Byte → Instr} (hf : ∀ bs, encode (f bs) = call ⟨bs, [], none⟩) (h : withBytes a f = .ok i) :
    encode i = call a := by
  unfold withBytes at h
  split at h
  next bs => cases h; exact hf bs
  next => cases h

theorem encode_of_withRaster {f : RasterArg → Instr} (hf : ∀ r, encode (f r) = call ⟨[], [r], none⟩) (h : withRaster a f = .ok i) :
    encode i = call a := by
  unfold withRaster at h
  split at h
  next r => cases h; exact hf r
  next => cases h

theorem encode_of_withRasters {f : RasterArg → Option RasterArg → Instr}
    (hf : ∀ r red, encode (f r red) = call ⟨[], r :: red.toList, none⟩) (h : withRasters a f = .ok i) : encode i = call a := by
  unfold withRasters at h
  split at h
  next r => cases h; exact hf r none
  next r q => cases h; exact hf r (some q)
  next => cases h

theorem encode_of_withSource {f : PlaneSource → Instr} (hf : ∀ p, encode (f p) = call ⟨[], [], some p⟩)
    (h : withSource a f = .ok i) : encode i = call a := by
  unfold withSource at h
  split at h
  next p => cases h; exact hf p
  next => cases h

end

theorem encode_of_decodeHost {op : BitVec 4} {a : Args} {i : Instr} (h : decodeHost op a = .ok i) : encode i = .hostOp op a := by
  have hcode : BitVec.ofNat 4 op.toNat = op := by simp
  unfold decodeHost at h
  rw [← hcode]
  generalize op.toNat = n at h ⊢
  split at h
  · exact encode_of_withNone rfl h
  · exact encode_of_withNone rfl h
  · exact encode_of_withByte (fun _ => rfl) h
  · exact encode_of_withByte (fun _ => rfl) h
  · exact encode_of_withBytes (fun _ => rfl) h
  · exact encode_of_withNone rfl h
  · exact encode_of_withNone rfl h
  · exact encode_of_withNone rfl h
  · exact encode_of_withNone rfl h
  · exact encode_of_withRasters (fun _ _ => rfl) h
  · exact encode_of_withNone rfl h
  · exact encode_of_withRaster (fun _ => rfl) h
  · cases h

theorem encode_of_decodePanel {code : Byte} {a : Args} {i : Instr} (h : decodePanel code a = .ok i) :
    encode i = .panelCmd code a := by
  unfold decodePanel at h
  split_ifs at h with hpsr hpof hpon hbtst hdslp hdtm1 hdrf hdtm2
  · exact encode_of_withNone (hpsr ▸ rfl) h
  · exact encode_of_withNone (hpof ▸ rfl) h
  · exact encode_of_withNone (hpon ▸ rfl) h
  · exact encode_of_withNone (hbtst ▸ rfl) h
  · exact encode_of_withNone (hdslp ▸ rfl) h
  · exact encode_of_withSource (fun _ => hdtm1 ▸ rfl) h
  · exact encode_of_withNone (hdrf ▸ rfl) h
  · exact encode_of_withSource (fun _ => hdtm2 ▸ rfl) h

theorem bind_checked_eq_ok {x : Except Reject Instr} {i : Instr} (h : x.bind checked = .ok i) : x = .ok i ∧ i.wellFormed = true := by
  cases x with
  | error e => cases h
  | ok j =>
    obtain ⟨rfl, hwf⟩ := checked_eq_ok h
    exact ⟨rfl, hwf⟩

/-- Settles O52, for each of the two formats. -/
theorem encodeOfDecodeIsTheCall : Obligations.EncodeOfDecodeIsTheCall := by
  unfold Obligations.EncodeOfDecodeIsTheCall
  intro c i h
  cases c with
  | hostOp op a => exact (bind_checked_eq_ok h).imp_left encode_of_decodeHost
  | panelCmd code a => exact (bind_checked_eq_ok h).imp_left encode_of_decodePanel

/-! ## Reserved codes, and codes written out -/

theorem decodeHost_of_reserved {op : BitVec 4} (a : Args) (h : 12 ≤ op.toNat) : decodeHost op a = .error (.reservedOperation op) := by
  unfold decodeHost
  split
  case h_13 => rfl
  all_goals omega

theorem decodePanel_of_reserved {code : Byte} (a : Args)
    (h : code ∉ [(0x00 : Byte), 0x02, 0x04, 0x06, 0x07, 0x10, 0x12, 0x13]) :
    decodePanel code a = .error (.reservedCommand code) := by
  have hcodes : code ∉ [Config.hw.cmdPanelSetting, Config.hw.cmdPowerOff, Config.hw.cmdPowerOn, Config.hw.cmdBoosterSoftStart,
    Config.hw.cmdDeepSleep, Config.hw.cmdDataBlack, Config.hw.cmdDisplayRefresh, Config.hw.cmdDataRed] := h
  simp only [List.mem_cons, List.not_mem_nil, or_false, not_or] at hcodes
  simp only [decodePanel, hcodes, if_false]

/-- Settles O53: a rejected code never reaches the check. -/
theorem reservedCodesAreRejected : Obligations.ReservedCodesAreRejected := by
  unfold Obligations.ReservedCodesAreRejected
  constructor
  · intro op a h
    rw [decode, decodeHost_of_reserved a h]; rfl
  · intro code a h
    rw [decode, decodePanel_of_reserved a h]; rfl

/-- Settles O54: each code is the encoding of its instruction, and each number stands for the call of its row. -/
theorem codesOfTheTable : Obligations.CodesOfTheTable := by
  unfold Obligations.CodesOfTheTable
  exact ⟨decode_encode .reset, decode_encode (.sendDataByte 0xA5), decode_encode (.encodePlane ⟨.red, 400, 300⟩),
    decode_encode .displayRefresh, congrArg Except.toOption (decode_encode .waitBusy),
    congrArg Except.toOption (decode_encode .displayRefresh)⟩

end Sys2Proof
end

section
/-! PROOFS. The size of a plane (R64, R65). -/
namespace Sys2Proof.Machine

theorem plane_size {P : List (List Byte)} (hrows : P.length = Config.hw.height)
    (hbytes : ∀ row ∈ P, row.length = Config.hw.bytesPerRow) :
    P.length = 300 ∧ (∀ row ∈ P, row.length = 50) ∧ P.flatten.length = 15000 := by
  refine ⟨hrows, hbytes, ?_⟩
  rw [flatten_length P _ hbytes, hrows]; rfl

/-- Settles O6, for the three kinds of plane. -/
theorem everyPlaneHas300RowsOf50Bytes : Obligations.EveryPlaneHas300RowsOf50Bytes := by
  unfold Obligations.EveryPlaneHas300RowsOf50Bytes
  rintro P (⟨R, rfl⟩ | rfl | ⟨n, rfl⟩)
  · exact plane_size (encodeRaster_length _ R) (encodeRaster_row_length _ R)
  · exact plane_size (whitePlane_length _) (whitePlane_row_length _)
  · exact plane_size (stripePlane_length _ n) (stripePlane_row_length _ n)

end Sys2Proof.Machine
end

section
/-! PROOFS. The bits of a plane: INK, BIT and PACK8 (R85 to R89), what a plane says of its raster (R98), and the constant planes
(R92, R93). -/
namespace Sys2Proof.Machine

/-! ## One sample (R85 to R87) -/

theorem ink_iff (s : Byte) : ink Config.hw s = true ↔ s.toNat < 128 :=
  decide_eq_true_iff

theorem bit_eq_ite (s : Byte) : bit Config.hw s = if s.toNat < 128 then 0 else 1 := by
  simp only [bit, ink_iff]; rfl

/-- Bit 7 of a byte says whether the byte is 128 or more. -/
theorem bitAt_seven (s : Byte) : bitAt s 7 = if s.toNat < 128 then 0 else 1 := by
  have hs : s.toNat < 256 := s.isLt
  apply BitVec.eq_of_toNat_eq
  rw [bitAt, BitVec.extractLsb'_toNat, Nat.shiftRight_eq_div_pow]
  split <;> simp <;> omega

/-- Settles O1: the threshold is 128. -/
theorem inkIsBelow128 : Obligations.InkIsBelow128 := by
  unfold Obligations.InkIsBelow128
  exact ink_iff

/-- Settles O2: BIT and bit 7 both tell whether the sample is below 128. -/
theorem planeBitIsTopBitOfSample : Obligations.PlaneBitIsTopBitOfSample := by
  unfold Obligations.PlaneBitIsTopBitOfSample
  exact fun s => ⟨bit_eq_ite s, (bit_eq_ite s).trans (bitAt_seven s).symm⟩

/-! ## Eight samples (R88, R89) -/

/-- A bit appended on the right doubles the number and adds the bit. -/
theorem toNat_append_bit {n : Nat} (x : BitVec n) (b : BitVec 1) : (x ++ b).toNat = 2 * x.toNat + b.toNat := by
  have hb : b.toNat < 2 ^ 1 := b.isLt
  rw [BitVec.toNat_append, ← Nat.shiftLeft_add_eq_or_of_lt hb, Nat.shiftLeft_eq]
  omega

/-- Settles O3: PACK8 appends the eight bits one by one. -/
theorem pack8IsWeightedSum : Obligations.Pack8IsWeightedSum := by
  unfold Obligations.Pack8IsWeightedSum
  intro p0 p1 p2 p3 p4 p5 p6 p7
  simp only [pack8, toNat_append_bit]
  omega

/-- Settles O4: the lanes by the order of the bits on the wire (`wireBits_pack8`), the serial form by `pack8_serial`. -/
theorem pack8LanesAndSerialForm : Obligations.Pack8LanesAndSerialForm := by
  unfold Obligations.Pack8LanesAndSerialForm
  intro p0 p1 p2 p3 p4 p5 p6 p7
  refine ⟨?_, pack8_serial Config.hw p0 p1 p2 p3 p4 p5 p6 p7⟩
  have hlanes := wireBits_pack8 p0 p1 p2 p3 p4 p5 p6 p7
  have hmsb : Config.hw.spiMsbFirst = true := rfl
  simpa [wireBits, hmsb] using hlanes

/-! ## A plane and its raster (R90, R91, R98) -/

theorem encodeRow_getElem? {c : Config} (R : Nat → Nat → Byte) (y : Nat) {k : Nat} (hk : k < c.bytesPerRow) :
    (encodeRow c R y)[k]? = some (encodeGroup c R y k) := by
  simp [encodeRow, hk]

theorem encodeRaster_getElem? {c : Config} (R : Nat → Nat → Byte) {y : Nat} (hy : y < c.height) :
    (encodeRaster c R)[y]? = some (encodeRow c R y) := by
  simp [encodeRaster, hy]

/-- Bit `7 - j` of a group's byte is the bit of the group's pixel `j` (R88, R90). -/
theorem bitAt_encodeGroup (R : Nat → Nat → Byte) (y k : Nat) {j : Nat} (hj : j < 8) :
    bitAt (encodeGroup Config.hw R y k) (7 - j) = bit Config.hw (R y (8 * k + j)) := by
  have hwire : (List.range 8).map (fun j => bitAt (encodeGroup Config.hw R y k) (7 - j)) =
      (List.range 8).map fun j => bit Config.hw (R y (8 * k + j)) := wireBits_encodeGroup R y k
  exact List.map_inj_left.1 hwire j (List.mem_range.2 hj)

/-- The bit of a pixel stands in byte `x / 8` of its row (R98). -/
theorem bitAt_encodeGroup_pixel (R : Nat → Nat → Byte) (y x : Nat) :
    bitAt (encodeGroup Config.hw R y (x / 8)) (7 - x % 8) = bit Config.hw (R y x) := by
  rw [bitAt_encodeGroup R y (x / 8) (Nat.mod_lt x (by decide)), Nat.div_add_mod]

/-- The byte of a group depends on the bits of its pixels only. -/
theorem encodeGroup_congr_bit (c : Config) {R Q : Nat → Nat → Byte} {y k : Nat}
    (h : ∀ j < 8, bit c (R y (8 * k + j)) = bit c (Q y (8 * k + j))) : encodeGroup c R y k = encodeGroup c Q y k := by
  rw [← accAfter_eight, ← accAfter_eight, accAfter, accAfter]
  refine List.foldl_ext _ _ _ fun acc j hj => ?_
  rw [shiftIn, shiftIn, h j (List.mem_range.1 hj)]

theorem encodeRaster_congr_bit {c : Config} (hc : Fits c) {R Q : Nat → Nat → Byte}
    (h : ∀ y x, y < c.height → x < c.width → bit c (R y x) = bit c (Q y x)) : encodeRaster c R = encodeRaster c Q := by
  unfold encodeRaster encodeRow
  refine List.map_congr_left fun y hy => List.map_congr_left fun k hk => encodeGroup_congr_bit c fun j hj => ?_
  have hk : k < c.bytesPerRow := List.mem_range.1 hk
  exact h y _ (List.mem_range.1 hy) (by rw [hc.w]; omega)

/-- Two rasters with one plane have the same bits (R98). -/
theorem bit_eq_of_encodeRaster_eq {R Q : Nat → Nat → Byte} (h : encodeRaster Config.hw R = encodeRaster Config.hw Q) {y x : Nat}
    (hy : y < 300) (hx : x < 400) : bit Config.hw (R y x) = bit Config.hw (Q y x) := by
  have hk : x / 8 < 50 := by omega
  have hrow : encodeRow Config.hw R y = encodeRow Config.hw Q y := by
    have := congrArg (·[y]?) h
    rwa [encodeRaster_getElem? R hy, encodeRaster_getElem? Q hy, Option.some.injEq] at this
  have hbyte : encodeGroup Config.hw R y (x / 8) = encodeGroup Config.hw Q y (x / 8) := by
    have := congrArg (·[x / 8]?) hrow
    rwa [encodeRow_getElem? R y hk, encodeRow_getElem? Q y hk, Option.some.injEq] at this
  rw [← bitAt_encodeGroup_pixel, hbyte, bitAt_encodeGroup_pixel]

/-- Two samples have the same bit exactly when they agree on ink. -/
theorem bit_eq_iff (s q : Byte) : bit Config.hw s = bit Config.hw q ↔ (s.toNat < 128 ↔ q.toNat < 128) := by
  rw [bit_eq_ite, bit_eq_ite]
  by_cases hs : s.toNat < 128 <;> by_cases hq : q.toNat < 128 <;> simp [hs, hq]

/-- Settles O5: a pixel's bit is read back from its byte, so a plane is its raster's bits and nothing else. -/
theorem encodingRecoversInkBitForBit : Obligations.EncodingRecoversInkBitForBit := by
  unfold Obligations.EncodingRecoversInkBitForBit
  refine ⟨fun R y x hy hx => ?_, fun R Q => ⟨fun h y x hy hx => ?_, fun h => ?_⟩⟩
  · have hk : x / 8 < 50 := by omega
    exact ⟨_, _, encodeRaster_getElem? R hy, encodeRow_getElem? R y hk, (bitAt_encodeGroup_pixel R y x).trans (bit_eq_ite _)⟩
  · exact (bit_eq_iff _ _).1 (bit_eq_of_encodeRaster_eq h hy hx)
  · exact encodeRaster_congr_bit hw_fits fun y x hy hx => (bit_eq_iff _ _).2 (h y x hy hx)

/-! ## The constant planes (R92, R93) -/

/-- A raster that is paper above row `n` and ink from it on. -/
def stripeRaster (n y _x : Nat) : Byte := if y < n then 255 else 0

theorem encodeGroup_stripeRaster (n y k : Nat) :
    encodeGroup Config.hw (stripeRaster n) y k = if y < n then Config.hw.whiteByte else Config.hw.inkByte := by
  simp only [encodeGroup, stripeRaster]
  split <;> decide

theorem encodeRaster_stripeRaster (n : Nat) : encodeRaster Config.hw (stripeRaster n) = stripePlane Config.hw n := by
  unfold encodeRaster encodeRow stripePlane
  simp only [encodeGroup_stripeRaster, List.map_const', List.length_range]

/-- STRIPE_PLANE is the encoding of every raster that is paper exactly above its first ink row. -/
theorem encodeRaster_eq_stripePlane {n : Nat} {R : Nat → Nat → Byte}
    (h : ∀ y x, y < 300 → x < 400 → (y < n ↔ 128 ≤ (R y x).toNat)) : encodeRaster Config.hw R = stripePlane Config.hw n := by
  rw [← encodeRaster_stripeRaster]
  refine encodeRaster_congr_bit hw_fits fun y x hy hx => (bit_eq_iff _ _).2 ?_
  have hpaper := h y x hy hx
  by_cases hn : y < n <;> simp [stripeRaster, hn] at hpaper ⊢ <;> omega

theorem stripePlane_height : stripePlane Config.hw 300 = whitePlane Config.hw := by
  refine List.eq_replicate_iff.2 ⟨stripePlane_length _ _, fun row hrow => ?_⟩
  obtain ⟨y, hy, rfl⟩ := List.mem_map.1 hrow
  have hy : y < 300 := List.mem_range.1 hy
  rw [if_pos hy]

/-- Settles O7: a stripe plane is an encoding, and the white plane is the stripe plane with no ink row. -/
theorem constantPlanesAreEncodings : Obligations.ConstantPlanesAreEncodings := by
  unfold Obligations.ConstantPlanesAreEncodings
  refine ⟨fun y k hy hk => ?_, fun n y k hy hk => ?_, fun R h => ?_, fun n R h => encodeRaster_eq_stripePlane h, stripePlane_height⟩
  · exact ⟨List.replicate 50 0xFF, List.getElem?_replicate_of_lt hy, List.getElem?_replicate_of_lt hk⟩
  · refine ⟨List.replicate 50 (if y < n then 0xFF else 0x00), ?_, List.getElem?_replicate_of_lt hk⟩
    rw [stripePlane, List.getElem?_map, List.getElem?_range (show y < Config.hw.height from hy)]; rfl
  · rw [← stripePlane_height]
    exact encodeRaster_eq_stripePlane fun y x hy hx => iff_of_true hy (h y x hy hx)

end Sys2Proof.Machine
end

section
/-! PROOFS. The streaming encoder emits ENCODE in order and then DONE (R100 to R105). -/
namespace Sys2Proof.Machine

/-! ## Runs of the machine -/

theorem run_succ_of_step {M : Host.Core} {s t : M.State} (h : M.step s = .next t) (k : Nat) : M.run (k + 1) s = M.run k t := by
  simp only [Host.Core.run, h]

/-- The state after ENC was offered these samples in order. -/
def takePixels (c : Config) (ps : List Byte) (s : State) : State := ps.foldl (fun t px => encPixel c px t) s

/-- Samples that stand next in HOST's queue are offered one a step (R100). -/
theorem run_pixels (ps : List Byte) (rest : List HostMove) {s : State} (hpending : s.pending = none) :
    Host.Core.run Sys2Proof.core ps.length (setInbox (ps.map .pixIn ++ rest) s) = .next (setInbox rest (takePixels Config.hw ps s)) := by
  induction ps generalizing s with
  | nil => rfl
  | cons px ps ih =>
    have hstep : step (setInbox (.pixIn px :: (ps.map .pixIn ++ rest)) s) =
        .next (setInbox (ps.map .pixIn ++ rest) (encPixel Config.hw px s)) := by
      rw [step_moves (s := setInbox _ s) rfl (.inl hpending), runMove, encPixel_setInbox, encPixel_setInbox]; rfl
    exact (run_succ_of_step (M := Sys2Proof.core) hstep _).trans (ih ((encPixel_pending Config.hw px s).trans hpending))

/-! ## The states of a stream -/

/-- Pixel `n` of a raster in scan order (R21). -/
def scanPixel (R : Nat → Nat → Byte) (n : Nat) : Byte := R (n / 400) (n % 400)

theorem rasterStream_eq (R : Nat → Nat → Byte) : rasterStream R = (List.range 120000).map (scanPixel R) := by
  rw [rasterStream, ← flatMap_range_groups (scanPixel R) 400 300]
  refine List.flatMap_congr fun y _ => List.map_congr_left fun x hx => ?_
  have hx : x < 400 := List.mem_range.1 hx
  rw [scanPixel, show (400 * y + x) / 400 = y by omega, show (400 * y + x) % 400 = x by omega]

/-- The state when `n` pixels of a raster have been accepted (R102 to R104). -/
def streamed (R : Nat → Nat → Byte) (col : Colour) (n : Nat) (s : State) : State :=
  if n < 120000 then midStream Config.hw R col (n / 400) (n % 400 / 8) (n % 8) s else endOfStream Config.hw R col s

section
variable (R : Nat → Nat → Byte) (col : Colour) {y g j : Nat} (s : State)

theorem scanPixel_at (hg : g < 50) (hj : j < 8) : scanPixel R ((y * 50 + g) * 8 + j) = R y (8 * g + j) := by
  rw [scanPixel, show ((y * 50 + g) * 8 + j) / 400 = y by omega, show ((y * 50 + g) * 8 + j) % 400 = 8 * g + j by omega]

theorem streamed_at (hy : y < 300) (hg : g < 50) (hj : j < 8) :
    streamed R col ((y * 50 + g) * 8 + j) s = midStream Config.hw R col y g j s := by
  rw [streamed, if_pos (by omega), show ((y * 50 + g) * 8 + j) / 400 = y by omega,
    show ((y * 50 + g) * 8 + j) % 400 / 8 = g by omega, show ((y * 50 + g) * 8 + j) % 8 = j by omega]

/-- One more pixel: inside its group, at the end of a group, at the end of a row, or the last of all (R102 to R104). -/
theorem encPixel_streamed {n : Nat} (hn : n < 120000) :
    encPixel Config.hw (scanPixel R n) (streamed R col n s) = streamed R col (n + 1) s := by
  obtain ⟨y, g, j, hy, hg, hj, rfl⟩ : ∃ y g j, y < 300 ∧ g < 50 ∧ j < 8 ∧ n = (y * 50 + g) * 8 + j :=
    ⟨n / 400, n % 400 / 8, n % 8, by omega, by omega, by omega, by omega⟩
  rw [scanPixel_at R hg hj, streamed_at R col s hy hg hj]
  by_cases h7 : j < 7
  · rw [encPixel_in_group _ _ _ _ _ _ _ hw_fits h7, Nat.add_assoc, streamed_at R col s hy hg (by omega)]
  obtain rfl : j = 7 := by omega
  by_cases hgroup : g + 1 < 50
  · rw [encPixel_ends_group _ _ _ _ _ _ hw_fits hgroup, show (y * 50 + g) * 8 + 7 + 1 = (y * 50 + (g + 1)) * 8 + 0 by omega,
      streamed_at R col s hy hgroup (by decide)]
  obtain rfl : g = 49 := by omega
  by_cases hrow : y + 1 < 300
  · rw [encPixel_ends_row _ _ _ _ _ _ hw_fits rfl hrow, show (y * 50 + 49) * 8 + 7 + 1 = ((y + 1) * 50 + 0) * 8 + 0 by omega,
      streamed_at R col s hrow (by decide) (by decide)]
  obtain rfl : y = 299 := by omega
  rw [encPixel_ends_stream _ _ _ _ _ _ hw_fits rfl rfl, streamed, if_neg (by decide)]

theorem takePixels_streamed {n : Nat} (hn : n ≤ 120000) :
    takePixels Config.hw ((List.range n).map (scanPixel R)) (streamed R col 0 s) = streamed R col n s := by
  induction n with
  | zero => rfl
  | succ n ih =>
    rw [List.range_succ, List.map_append, takePixels, List.foldl_append]
    exact (congrArg (encPixel Config.hw (scanPixel R n)) (ih (by omega))).trans (encPixel_streamed R col s hn)

/-- A whole raster offered after START. -/
theorem takePixels_rasterStream :
    takePixels Config.hw (rasterStream R) (setEnc ⟨0, 0, 0, 0, true, col⟩ s) = endOfStream Config.hw R col s := by
  have hstart : setEnc ⟨0, 0, 0, 0, true, col⟩ s = streamed R col 0 s := by
    rw [streamed, if_pos (by decide)]
    cases col <;> simp [midStream, setEnc, firstBytes, accAfter, Memory.writeAll, setMem, memOf, Colour.planeSpace]
  rw [rasterStream_eq, hstart, takePixels_streamed R col s (Nat.le_refl _), streamed, if_neg (Nat.lt_irrefl _)]

end

/-! ## What the stream leaves (R104, R105) -/

/-- A PLANE space into which ENCODE's bytes were written from address 0 holds its rows (R42, R91). -/
theorem planeRows_of_writeAll {c : Config} {col : Colour} {R : Nat → Nat → Byte} {m : Memory} {s : State}
    (h : memOf col.planeSpace s = Memory.writeAll m 0 (encodeRaster c R).flatten) : planeRows c col s = encodeRaster c R := by
  unfold planeRows encodeRaster encodeRow
  refine List.map_congr_left fun y hy => List.map_congr_left fun k hk => ?_
  have hy : y < c.height := List.mem_range.1 hy
  have hk : k < c.bytesPerRow := List.mem_range.1 hk
  have hbyte : (encodeRaster c R).flatten[y * c.bytesPerRow + k]? = some (encodeGroup c R y k) := by
    rw [flatten_getElem _ _ (encodeRaster_row_length c R) y k (by simpa) hk]
    simp [encodeRaster, encodeRow, hk]
  obtain ⟨hlt, -⟩ := List.getElem?_eq_some_iff.1 hbyte
  rw [planeByte, readByte, h, Memory.find_writeAll, if_pos ⟨Nat.zero_le _, by omega⟩, Nat.sub_zero, hbyte]

theorem memOf_endOfStream (c : Config) (R : Nat → Nat → Byte) (col : Colour) (s : State) :
    memOf col.planeSpace (endOfStream c R col s) = Memory.writeAll (memOf col.planeSpace s) 0 (encodeRaster c R).flatten := by
  cases col <;> rfl

theorem memOf_setInbox (sp : Space) (l : List HostMove) (s : State) : memOf sp (setInbox l s) = memOf sp s := by cases sp <;> rfl

theorem encStart_of_idle {s : State} (h : Idle s) (col : Colour) :
    encStart Config.hw col 400 300 s = setEnc ⟨0, 0, 0, 0, true, col⟩ s := by
  obtain ⟨hpending, hactive⟩ := h
  simp [encStart, inProgress, hpending, hactive, validate, hw_width, hw_height]

/-- Settles O9: START, then every pixel of the raster, one a step. -/
theorem streamingEncoderRefinesEncode : Obligations.StreamingEncoderRefinesEncode := by
  unfold Obligations.StreamingEncoderRefinesEncode
  intro R col rest s hidle hinbox
  have hstart : step s = .next (setInbox ((rasterStream R).map .pixIn ++ rest) (setEnc ⟨0, 0, 0, 0, true, col⟩ s)) := by
    have hidle' : Idle (setInbox ((rasterStream R).map .pixIn ++ rest) s) := hidle
    rw [step_moves hinbox (.inl hidle.1)]
    exact congrArg Host.Outcome.next (encStart_of_idle hidle' col)
  have hrun : Host.Core.run Sys2Proof.core ((rasterStream R).length + 1) s = .next (setInbox rest (endOfStream Config.hw R col s)) := by
    rw [← takePixels_rasterStream]
    exact (run_succ_of_step (M := Sys2Proof.core) hstart _).trans (run_pixels _ rest (s := setEnc _ s) hidle.1)
  refine ⟨_, hrun, rfl, rfl, rfl, ?_, ?_⟩
  · exact planeRows_of_writeAll ((memOf_setInbox _ _ _).trans (memOf_endOfStream _ R col s))
  · simp [endOfStream, hidle.1]

end Sys2Proof.Machine
end

section
/-! PROOFS. ENCODE_PLANE (R96, R97) and the frame of the instructions that use ENC (R18, R29, R96). -/
namespace Sys2Proof.Machine

/-! ## ENCODE_PLANE -/

/-- ENCODE_PLANE needs no resource of SEQ (R97). -/
theorem mem_admittedIn_encodePlane (l : Life) (r : RasterArg) : l ∈ admittedIn (.encodePlane r) := by
  cases l <;> simp [admittedIn]

theorem exec_encodePlane {r : RasterArg} {s : State} (h : Idle s) (hr : PanelSized r) :
    exec (.encodePlane r) s = .next (giveBack (.okPlane (encodeRaster Config.hw (sample Config.hw r.space s)))
      (discardPlane r.space (encodeInto Config.hw r.space r.space s))) := by
  rw [exec_admitted h (mem_admittedIn_encodePlane _ r), meaning, encodePlane, validateArg_of_panelSized hr]

theorem memOf_giveBack (sp : Space) (x : OpResult) (s : State) : memOf sp (giveBack x s) = memOf sp s := by cases sp <;> rfl

theorem memOf_abort (sp : Space) (n : Nat) (e : Error) (s : State) : memOf sp (abort n e s) = memOf sp s := by cases sp <;> rfl

/-- One encode and the loss of its plane change no other space (R59). -/
theorem memOf_discardPlane_encodeInto {c : Config} {src dst : Colour} {sp : Space} (h : sp ≠ dst.planeSpace) (s : State) :
    memOf sp (discardPlane dst (encodeInto c src dst s)) = memOf sp s :=
  (memOf_setMem_other _ _ _ _ h).trans (encodeInto_memOf_other c src dst s sp h)

/-- Settles O11: one encode, the return of the plane, the loss of its PLANE space. -/
theorem encodePlaneReturnsThePlane : Obligations.EncodePlaneReturnsThePlane := by
  unfold Obligations.EncodePlaneReturnsThePlane
  intro r s hidle hr
  have hother (sp : Space) (hsp : sp ≠ r.space.planeSpace) := memOf_discardPlane_encodeInto (c := Config.hw) (src := r.space) hsp s
  refine ⟨_, exec_encodePlane hidle hr, by simp, by simp, by simp, by simp, by simp, by simp, rfl, ?_, by simp, by simp, ?_,
    fun sp hsp => (memOf_giveBack _ _ _).trans (hother sp hsp)⟩
  · simp [idleEnc]
  · rw [memOf_giveBack, discardPlane, memOf_setMem_same]

/-- Settles O12: the plane is ENCODE of the samples (`exec_encodePlane`), which reads the 120000 addresses only. -/
theorem encodePlaneDependsOnSamplesOnly : Obligations.EncodePlaneDependsOnSamplesOnly := by
  unfold Obligations.EncodePlaneDependsOnSamplesOnly
  intro r s u hs hu hr hsamples
  have hplane : encodeRaster Config.hw (sample Config.hw r.space u) = encodeRaster Config.hw (sample Config.hw r.space s) := by
    refine encodeRaster_congr Config.hw rfl _ _ fun y x hy hx => (hsamples _ ?_).symm
    rw [hw_height] at hy
    rw [hw_width] at hx ⊢
    omega
  refine ⟨_, _, encodeRaster Config.hw (sample Config.hw r.space s), exec_encodePlane hs hr, exec_encodePlane hu hr, ?_, ?_⟩
  · simp
  · simp [hplane]

/-! ## The frame -/

theorem exec_inbox {i : Instr} {s t : State} (h : exec i s = .next t) : t.inbox = s.inbox := by
  by_cases hadm : Idle s ∧ s.seq.life ∈ admittedIn i
  · rw [exec_admitted hadm.1 hadm.2] at h; cases h
    exact (meaning_ends i s hadm.2).2.inbox
  · rw [exec_refused hadm] at h; cases h; rfl

theorem memOf_stable (sp : Space) : Stable (Same (memOf sp)) where
  trans := Same.trans
  wire h := by cases sp <;> simp [Same, memOf, h.rasterK, h.rasterR, h.planeK, h.planeR]
  giveBack _ _ := memOf_giveBack sp _ _
  setLife _ _ := by cases sp <;> rfl
  noteError _ _ := by cases sp <;> rfl
  keepWaiting _ _ := memOf_keepWaiting sp _ _
  refuse _ := by cases sp <;> rfl

/-- What ENCODE_PLANE leaves alone, whether it returns the plane, an error, or is refused (R97). -/
structure EncodesAside (col : Colour) (s t : State) : Prop where
  dc : t.seq.dc = s.seq.dc
  life : t.seq.life = s.seq.life
  env : t.env = s.env
  hist : t.hist = s.hist
  memOf : ∀ sp, sp ≠ col.planeSpace → memOf sp t = memOf sp s

theorem encodePlane_aside (c : Config) (r : RasterArg) (s : State) : EncodesAside r.space s (encodePlane c r s) := by
  unfold encodePlane
  split
  · exact ⟨rfl, by simp [lifeAfterError], rfl, rfl, fun sp _ => memOf_abort _ _ _ _⟩
  · exact ⟨by simp, by simp, by simp, by simp, fun sp hsp => (memOf_giveBack _ _ _).trans (memOf_discardPlane_encodeInto hsp s)⟩

theorem exec_encodePlane_aside {r : RasterArg} {s t : State} (h : exec (.encodePlane r) s = .next t) : EncodesAside r.space s t := by
  rw [exec_eq_operation, operation] at h
  split at h <;> cases h
  · exact encodePlane_aside Config.hw r s
  · exact ⟨rfl, rfl, rfl, rfl, fun sp _ => (memOf_stable sp).refuse s⟩

/-- A data command with an encoded plane writes no space but its own PLANE (R125, R127). -/
theorem sendEncoded_memOf_other {dst : Colour} {sp : Space} (h : sp ≠ dst.planeSpace) (c : Config) (code : Byte) (r : RasterArg)
    (s : State) : Same (memOf sp) s (sendEncoded c code dst r s) := by
  have hP := memOf_stable sp
  have hencode : Same (memOf sp) s (encodeInto c r.space dst s) := encodeInto_memOf_other c r.space dst s sp h
  unfold sendEncoded
  split
  · exact memOf_abort _ _ _ _
  · exact (hP.settle hP.refl (hencode.trans (hP.wire (sendPlane_wire c code _ _)))).trans (memOf_setMem_other _ _ _ _ h)

theorem operation_sendEncoded_memOf_other {dst : Colour} {sp : Space} (h : sp ≠ dst.planeSpace) (lives : List Life) (code : Byte)
    (r : RasterArg) (s : State) : Same (memOf sp) s (operation lives (sendSource Config.hw code dst (.encoded r)) s) := by
  unfold operation
  split
  · exact sendEncoded_memOf_other h Config.hw code r s
  · exact (memOf_stable sp).refuse s

/-- Settles O47: the rasters, the queue and RST by what every instruction keeps, the rest by the instructions' own frames. -/
theorem frameOfTheEncoder : Obligations.FrameOfTheEncoder := by
  unfold Obligations.FrameOfTheEncoder
  intro i s t huses h
  obtain ⟨hrK, hrR⟩ := Prod.mk.inj (show Same rasters s t from exec_rasters h)
  have hrst : Same rstLevel s t :=
    rstLevel_stable.exec i (fun _ => rstLevel_encodes _) (fun hreset => by rw [hreset] at huses; cases huses) h
  refine ⟨hrK, hrR, exec_inbox h, hrst, ?_, ?_, ?_⟩
  · rintro r rfl
    obtain ⟨hdc, hlife, henv, hhist, hmem⟩ := exec_encodePlane_aside h
    exact ⟨hdc, hlife, henv, hhist, hmem⟩
  · rintro r rfl
    cases h
    exact operation_sendEncoded_memOf_other (dst := .black) (sp := .planeR) (by decide) _ _ r s
  · rintro r rfl
    cases h
    exact operation_sendEncoded_memOf_other (dst := .red) (sp := .planeK) (by decide) _ _ r s

end Sys2Proof.Machine
end

section
/-! PROOFS. What one transmission primitive does (R109 to R113), for every answer of the platform. -/
namespace Sys2Proof.Machine

/-! ## The end of an operation, as the statements write it -/

theorem giveBack_of_none {s : State} (h : s.pending = none) (r : OpResult) :
    giveBack r s = { s with returns := s.returns ++ [r] } := by
  rw [giveBack, ← h]

/-- The abort (R155) is the statements' `errored`, with no operation in progress afterwards. -/
theorem abort_eq_errored (start : Nat) (e : Error) (s : State) :
    abort start e s = errored (lifeAfterError start s) e { s with pending := none } := rfl

theorem abort_of_none {s : State} (h : s.pending = none) (start : Nat) (e : Error) :
    abort start e s = errored (lifeAfterError start s) e s := by
  rw [abort_eq_errored, ← h]

/-- After an error the lifecycle value stays if the operation has emitted no event, else it is READY (R132). -/
theorem lifeAfterError_of_append {s t : State} {l : List Event} (h : t.hist = s.hist ++ l) :
    lifeAfterError s.hist.length t = if l = [] then t.seq.life else .ready := by
  simp [lifeAfterError, h]

/-! ## An instruction that is one sequence of steps -/

section
variable {i : Instr} {f : State → Run} {s t : State}

theorem exec_primitive_ok (hidle : Idle s) (hlife : s.seq.life ∈ admittedIn i) (hi : meaning i = primitive f)
    (h : f s = .ok t) (hnone : t.pending = none) : exec i s = .next { t with returns := t.returns ++ [.ok] } := by
  rw [exec_admitted hidle hlife, hi, primitive, h, settle, id, giveBack_of_none hnone]

theorem exec_primitive_raised {e : Error} {l : List Event} (hidle : Idle s) (hlife : s.seq.life ∈ admittedIn i)
    (hi : meaning i = primitive f) (h : f s = .raised e t) (hnone : t.pending = none) (hhist : t.hist = s.hist ++ l) (hl : l ≠ []) :
    exec i s = .next (errored .ready e t) := by
  rw [exec_admitted hidle hlife, hi, primitive, h, settle, abort_of_none hnone, lifeAfterError_of_append hhist, if_neg hl]

end

/-! ## One transaction behind a line write -/

/-- The shape SEND_COMMAND_BYTE, SEND_DATA_BYTE and SEND_DATA share (R111 to R113): DC, one SPI transaction, and what is done
about the count of bytes written. -/
def transaction (lv : Level) (bytes : List Byte) (counted : Nat → State → State) (s : State) : Run :=
  (lineWrite .dc lv s).andThen fun t =>
    match t.env.spiAnswer bytes.length with
    | .ok n => .ok (counted n (spiWrite bytes t))
    | .err e => .raised (.transport e) (spiWrite bytes t)

theorem sendByte_eq_transaction (lv : Level) (b : Byte) : sendByte lv b = transaction lv [b] fun _ t => t := rfl

theorem sendData_eq_transaction (bs : List Byte) :
    sendData Config.hw bs = transaction .high bs (logPartial bs.length) := rfl

/-- The next answers of the platform to a line write and to a transaction have been taken (R109, R110). -/
def answered (la : List CallAnswer) (sa : List SpiAnswer) (s : State) : State :=
  setEnv { s.env with lineAnswers := la, spiAnswers := sa } s

section
variable {la : List CallAnswer} {s : State}

theorem lineWrite_dc_of_ok (h : s.env.lineAnswers = .ok :: la) (lv : Level) :
    lineWrite .dc lv s = .ok (sent lv [.dc lv] (answered la s.env.spiAnswers s)) := by
  simp only [lineWrite, Env.lineAnswer, Env.afterLine, h]
  rfl

theorem lineWrite_dc_of_err {e : Nat} (h : s.env.lineAnswers = .err e :: la) (lv : Level) :
    lineWrite .dc lv s = .raised (.transport e) (emit (.dc lv) (answered la s.env.spiAnswers s)) := by
  simp only [lineWrite, Env.lineAnswer, Env.afterLine, h]
  rfl

variable (lv : Level) (bytes : List Byte) (counted : Nat → State → State)

theorem transaction_of_dc_err {e : Nat} (h : s.env.lineAnswers = .err e :: la) :
    transaction lv bytes counted s = .raised (.transport e) (emit (.dc lv) (answered la s.env.spiAnswers s)) := by
  rw [transaction, lineWrite_dc_of_err h, Run.andThen_raised]

theorem spiWrite_of_answer {a : SpiAnswer} {sa : List SpiAnswer} (h : s.env.spiAnswers = a :: sa) :
    spiWrite bytes (sent lv [.dc lv] (answered la s.env.spiAnswers s)) =
      sent lv [.dc lv, .spi bytes (a.clamp bytes.length)] (answered la sa s) := by
  simp [spiWrite, sent, answered, setEnv, Env.spiAnswer, Env.afterSpi, h, emit]

theorem transaction_of_ok {n : Nat} {sa : List SpiAnswer} (hline : s.env.lineAnswers = .ok :: la)
    (hspi : s.env.spiAnswers = .ok n :: sa) :
    transaction lv bytes counted s = .ok (counted (min n bytes.length)
      (sent lv [.dc lv, .spi bytes (.ok (min n bytes.length))] (answered la sa s))) := by
  rw [transaction, lineWrite_dc_of_ok hline, Run.andThen_ok, spiWrite_of_answer lv bytes hspi]
  simp [sent, answered, Env.spiAnswer, hspi, SpiAnswer.clamp]

theorem transaction_of_spi_err {e : Nat} {sa : List SpiAnswer} (hline : s.env.lineAnswers = .ok :: la)
    (hspi : s.env.spiAnswers = .err e :: sa) :
    transaction lv bytes counted s =
      .raised (.transport e) (sent lv [.dc lv, .spi bytes (.err e)] (answered la sa s)) := by
  rw [transaction, lineWrite_dc_of_ok hline, Run.andThen_ok, spiWrite_of_answer lv bytes hspi]
  simp [sent, answered, Env.spiAnswer, hspi, SpiAnswer.clamp]

end

/-! ## The three primitives -/

/-- The four answers the platform can give to one byte behind a line write. -/
theorem sendsOneByte_of_meaning {i : Byte → Instr} {lv : Level} (hlives : ∀ b, admittedIn (i b) = openLives)
    (hi : ∀ b, meaning (i b) = primitive (sendByte lv b)) : sendsOneByte i lv := by
  intro b s hidle hopen
  have hlife : s.seq.life ∈ admittedIn (i b) := hlives b ▸ hopen
  have hmeans : meaning (i b) = primitive (transaction lv [b] fun _ t => t) := hi b
  refine ⟨fun hideal => ?_, fun n la sa hline hspi => ?_, fun e la sa hline hspi => ?_, fun e la hline => ?_⟩
  · exact exec_primitive_ok hidle hlife (hi b) (sendByte_ideal hideal lv b) hidle.1
  · exact exec_primitive_ok hidle hlife hmeans (transaction_of_ok lv [b] _ hline hspi) hidle.1
  · exact exec_primitive_raised hidle hlife hmeans (transaction_of_spi_err lv [b] _ hline hspi) hidle.1 rfl (by simp)
  · exact exec_primitive_raised hidle hlife hmeans (transaction_of_dc_err lv [b] _ hline) hidle.1 rfl (by simp)

/-- Settles O14: SEND_COMMAND_BYTE is one byte with DC low. -/
theorem sendCommandByteWithDcLow : Obligations.SendCommandByteWithDcLow := by
  unfold Obligations.SendCommandByteWithDcLow
  exact sendsOneByte_of_meaning (fun _ => rfl) (fun _ => rfl)

/-- Settles O15: SEND_DATA_BYTE is one byte with DC high. -/
theorem sendDataByteWithDcHigh : Obligations.SendDataByteWithDcHigh := by
  unfold Obligations.SendDataByteWithDcHigh
  exact sendsOneByte_of_meaning (fun _ => rfl) (fun _ => rfl)

/-- A count below the length is logged, any other is cut to it (R110, R113). -/
theorem logPartial_sent (bs : List Byte) (n : Nat) (s : State) :
    logPartial bs.length (min n bs.length) (sent .high [.dc .high, .spi bs (.ok (min n bs.length))] s) =
      sent .high (if n < bs.length then [.dc .high, .spi bs (.ok n), .partialWrite bs.length n]
        else [.dc .high, .spi bs (.ok bs.length)]) s := by
  by_cases h : n < bs.length
  · simp [logPartial, h, Nat.min_eq_left (Nat.le_of_lt h), emit, sent]
  · simp [logPartial, h, Nat.min_eq_right (Nat.not_lt.1 h)]

/-- Settles O16: one transaction, its count examined by `logPartial_sent`. -/
theorem sendDataIsOneTransaction : Obligations.SendDataIsOneTransaction := by
  unfold Obligations.SendDataIsOneTransaction
  intro bs s hidle hopen
  have hlife : s.seq.life ∈ admittedIn (.sendData bs) := hopen
  have hmeans : meaning (.sendData bs) = primitive (transaction .high bs (logPartial bs.length)) := rfl
  refine ⟨fun hideal => ?_, fun n la sa hline hspi => ?_, fun e la sa hline hspi => ?_, fun e la hline => ?_⟩
  · exact exec_primitive_ok hidle hlife rfl (sendData_ideal hideal bs) hidle.1
  · have hsent := transaction_of_ok .high bs (logPartial bs.length) hline hspi
    rw [logPartial_sent] at hsent
    exact exec_primitive_ok hidle hlife hmeans hsent hidle.1
  · exact exec_primitive_raised hidle hlife hmeans (transaction_of_spi_err .high bs _ hline hspi) hidle.1 rfl (by simp)
  · exact exec_primitive_raised hidle hlife hmeans (transaction_of_dc_err .high bs _ hline) hidle.1 rfl (by simp)

end Sys2Proof.Machine
end

section
/-! PROOFS. WAIT_BUSY: as an operation, and at the further polls of an operation that stands in it (R114 to R117). -/
namespace Sys2Proof.Machine

/-! ## The end of the wait -/

/-- WAIT_BUSY entered with samples at hand of which one reads ready (R116). -/
theorem enterWait_of_ready {k : Nat} {rest : List BusyAnswer} {s : State} (h : s.env.busySamples = readyAfter k rest) (p : Pending) :
    enterWait Config.hw p s = conclude Config.hw p (waited rest (waitEvents k) s) := by
  rw [enterWait, h, pollAll_ready, settlePoll]

/-- An operation other than FIRST_SEQUENCE, CLOSE and PRINT_IMAGE has nothing left to do after its WAIT_BUSY. -/
theorem conclude_of_last {p : Pending} (hfirst : p.op ≠ .firstSequence) (hclose : p.op ≠ .close) (himage : p.op ≠ .printImage)
    (c : Config) (s : State) : conclude c p s = giveBack .ok s := by
  obtain ⟨op, start⟩ := p
  cases op
  case firstSequence => exact absurd rfl hfirst
  case close => exact absurd rfl hclose
  case printImage => exact absurd rfl himage
  all_goals rfl

/-- FIRST_SEQUENCE and CLOSE end with a command of one parameter and a lifecycle transition (R131, R135, R142). -/
theorem settle_sendCommand_ideal {s : State} (hideal : IdealCalls s) (start : Nat) (life : Life) (code param : Byte) :
    settle start (setLife life) (sendCommand Config.hw code [param] s) = { s with
      seq := { s.seq with dc := .high, life := life }
      hist := s.hist ++ (byteEvents .low code ++ byteEvents .high param)
      pending := none
      returns := s.returns ++ [.ok] } := by
  rw [sendCommand_one_ideal hideal]
  rfl

/-! ## WAIT_BUSY as an operation -/

theorem exec_waitBusy {s : State} (hidle : Idle s) (hopen : s.seq.life ∈ openLives) :
    exec .waitBusy s = .next (enterWait Config.hw ⟨.waitBusy, s.hist.length⟩ s) :=
  exec_admitted (i := .waitBusy) hidle hopen

/-- WAIT_BUSY ends at once with the error of a poll that raises (R115, R155). -/
theorem exec_waitBusy_of_raised {rest : List BusyAnswer} {l : List Event} {e : Error} {s : State} (hidle : Idle s)
    (hopen : s.seq.life ∈ openLives) (h : pollAll Config.hw s.env.busySamples s = .raised e (waited rest l s)) :
    exec .waitBusy s = .next (errored (if l = [] then s.seq.life else .ready) e (waited rest l s)) := by
  have hnone : (waited rest l s).pending = none := hidle.1
  rw [exec_waitBusy hidle hopen, enterWait, h, settlePoll, discardFor, abort_of_none hnone, lifeAfterError_of_append rfl]
  rfl

/-- Settles O17: the wait ends at the ready sample, and nothing follows it. -/
theorem waitBusyReturnsAtFirstReadySample : Obligations.WaitBusyReturnsAtFirstReadySample := by
  unfold Obligations.WaitBusyReturnsAtFirstReadySample
  intro k rest s hidle hopen hsamples
  have hnone : (waited rest (waitEvents k) s).pending = none := hidle.1
  rw [exec_waitBusy hidle hopen, enterWait_of_ready hsamples, conclude_of_last (p := ⟨.waitBusy, _⟩) nofun nofun nofun,
    giveBack_of_none hnone, List.append_assoc]
  rfl

theorem busyEvents_eq_nil {k : Nat} : busyEvents k = [] ↔ k = 0 := by
  cases k <;> simp [busyEvents, List.replicate_succ]

/-- Settles O18: what the poll raises (`pollAll_unexpected`, `pollAll_error`) is what the operation returns. -/
theorem waitBusyRaisesAtOnce : Obligations.WaitBusyRaisesAtOnce := by
  unfold Obligations.WaitBusyRaisesAtOnce
  intro k rest s hidle hopen
  refine ⟨fun v h0 h1 hsamples => ?_, fun e hsamples => ?_⟩
  · rw [exec_waitBusy_of_raised hidle hopen (hsamples ▸ pollAll_unexpected k v h0 h1 rest s), if_neg (by simp),
      List.append_assoc]
    rfl
  · rw [exec_waitBusy_of_raised hidle hopen (hsamples ▸ pollAll_error k e rest s)]
    simp only [busyEvents_eq_nil]
    rfl

/-! ## A further poll -/

/-- A further poll that meets only busy samples meets one more, the last, and leaves none at hand. -/
theorem PolledBusy.polled {s : State} {k : Nat} {v : Env} (h : PolledBusy s k v) : Polled s k (.level 0) v ∧ v.busySamples = [] := by
  rcases h with ⟨hsamples, rfl⟩ | ⟨rfl, hnone, hdraw, rfl⟩
  · exact ⟨.inl ⟨[], by rw [hsamples, busySamples, busySamples, List.replicate_succ'], rfl⟩, rfl⟩
  · exact ⟨.inr ⟨rfl, hnone, hdraw, rfl⟩, hnone⟩

/-- Settles O19: at the issuing step by `enterWait_of_busy`, at a further poll because no sample is left after the busy one. -/
theorem busyPanelKeepsTheOperationWaiting : Obligations.BusyPanelKeepsTheOperationWaiting := by
  unfold Obligations.BusyPanelKeepsTheOperationWaiting
  refine ⟨fun k s hidle hopen hsamples => ?_, fun k v p s hpending hwaits hbusy => ?_⟩
  · rw [exec_waitBusy hidle hopen, enterWait_of_busy hsamples]
    rfl
  · obtain ⟨hpolled, hleft⟩ := hbusy.polled
    rw [step_polled hpending hwaits hpolled]
    have hagain : polledOutcome s k (.level 0) v = .again { s with env := v, hist := s.hist ++ busyEvents (k + 1) } := by
      simp [polledOutcome, hleft, pollAll]
    rw [hagain, settlePoll, keepWaiting, ← hpending]

/-- A poll takes no answer to a call. -/
theorem Polled.idealCalls {s : State} {k : Nat} {a : BusyAnswer} {v : Env} (h : Polled s k a v) (hs : IdealCalls s) (l : List Event) :
    IdealCalls { s with env := v, hist := l } := by
  rcases h with ⟨rest, -, rfl⟩ | ⟨-, -, -, rfl⟩ <;> exact hs

/-- Settles O20: a poll that reads ready goes on with `conclude`, case by case. -/
theorem waitingOperationGoesOnWhenReady : Obligations.WaitingOperationGoesOnWhenReady := by
  unfold Obligations.WaitingOperationGoesOnWhenReady
  intro k v p s hpending hwaits hpolled
  have hstep : step s = .next (conclude Config.hw p { s with env := v, hist := s.hist ++ waitEvents k }) :=
    step_polled hpending hwaits hpolled
  rw [hstep]
  refine ⟨fun hop hideal => ?_, fun hop hideal => ?_, fun hop => ?_, fun hfirst hclose himage => ?_⟩
  · simp only [conclude, hop, settle_sendCommand_ideal (hpolled.idealCalls hideal _), List.append_assoc]
    rfl
  · simp only [conclude, hop, settle_sendCommand_ideal (hpolled.idealCalls hideal _), List.append_assoc]
    rfl
  · simp only [conclude, hop]
    rfl
  · rw [conclude_of_last hfirst hclose himage]
    rfl

theorem discardFor_eq (op : Waiting) (s : State) : discardFor op s = { s with
    planeK := if op = .printImage then [] else s.planeK
    planeR := if op = .printImage then [] else s.planeR } := by
  cases op <;> rfl

/-- Settles O60: both errors of a further poll end the operation with the same abort. -/
theorem waitingOperationRaisesAtOnce : Obligations.WaitingOperationRaisesAtOnce := by
  unfold Obligations.WaitingOperationRaisesAtOnce
  intro k a v p s hpending hwaits hpolled e l hraises
  have houtcome : polledOutcome s k a v = .raised e { s with env := v, hist := s.hist ++ l } := by
    rcases hraises with ⟨u, h0, h1, rfl, rfl, rfl⟩ | ⟨x, rfl, rfl, rfl⟩
    · simp only [polledOutcome, if_neg h1, if_neg h0]
    · rfl
  rw [step_polled hpending hwaits hpolled, houtcome, settlePoll, discardFor_eq, abort_eq_errored, lifeAfterError, List.length_append]

end Sys2Proof.Machine
end

section
/-! PROOFS. The panel commands on the ideal platform (R118 to R127). -/
namespace Sys2Proof.Machine

/-- Settles O21: a command byte and its parameters are one sequence of bytes (R118). -/
theorem commandsWithParameters : Obligations.CommandsWithParameters := by
  unfold Obligations.CommandsWithParameters
  intro s hidle hopen hideal
  refine ⟨?_, ?_, ?_⟩
  · exact exec_primitive_ok (i := .panelSetting) hidle hopen rfl (sendCommand_one_ideal hideal 0x00 Config.hw.psrP0) hidle.1
  · exact exec_primitive_ok (i := .boosterSoftStart) hidle hopen rfl
      (sendCommand_three_ideal hideal 0x06 Config.hw.btstP0 Config.hw.btstP1 Config.hw.btstP2) hidle.1
  · exact exec_primitive_ok (i := .deepSleep) hidle hopen rfl (sendCommand_one_ideal hideal 0x07 0xA5) hidle.1

/-! ## A command byte, then WAIT_BUSY -/

/-- An operation that has nothing left to do after its WAIT_BUSY: the command byte, the wait, Ok (R116, R121, R122, R126). -/
theorem commandThenWait_ideal {op : Waiting} {k : Nat} {rest : List BusyAnswer} {s : State} (hideal : IdealCalls s)
    (hnone : s.pending = none) (hsamples : s.env.busySamples = readyAfter k rest) (hfirst : op ≠ .firstSequence)
    (hclose : op ≠ .close) (himage : op ≠ .printImage) (code : Byte) :
    commandThenWait Config.hw op code s = { s with
      seq := { s.seq with dc := .low }
      env := { s.env with busySamples := rest }
      hist := s.hist ++ (byteEvents .low code ++ waitEvents k)
      returns := s.returns ++ [.ok] } := by
  have hready : (sent .low (byteEvents .low code) s).env.busySamples = readyAfter k rest := hsamples
  have hstill : (waited rest (waitEvents k) (sent .low (byteEvents .low code) s)).pending = none := hnone
  rw [commandThenWait, sendCommandByte_ideal hideal, thenWait, enterWait_of_ready hready, conclude_of_last hfirst hclose himage,
    giveBack_of_none hstill, ← List.append_assoc]
  rfl

/-- The three panel commands that a wait follows are one helper with a command byte, and have nothing left to do after the wait. -/
theorem exec_commandThenWait {s : State} (hidle : Idle s) (hopen : s.seq.life ∈ openLives) {i : Instr} {b : Byte}
    (hi : (i, b) ∈ [(Instr.powerOff, (0x02 : Byte)), (.powerOn, 0x04), (.displayRefresh, 0x12)]) :
    ∃ op : Waiting, op ≠ .firstSequence ∧ op ≠ .close ∧ op ≠ .printImage ∧
      exec i s = .next (commandThenWait Config.hw op b s) := by
  simp only [List.mem_cons, Prod.mk.injEq, List.not_mem_nil, or_false] at hi
  rcases hi with ⟨rfl, rfl⟩ | ⟨rfl, rfl⟩ | ⟨rfl, rfl⟩
  · exact ⟨.powerOff, nofun, nofun, nofun, exec_admitted (i := .powerOff) hidle hopen⟩
  · exact ⟨.powerOn, nofun, nofun, nofun, exec_admitted (i := .powerOn) hidle hopen⟩
  · exact ⟨.displayRefresh, nofun, nofun, nofun, exec_admitted (i := .displayRefresh) hidle hopen⟩

/-- Settles O22: the command byte is sent, then the wait ends at the ready sample (`commandThenWait_ideal`). -/
theorem commandsFollowedByWait : Obligations.CommandsFollowedByWait := by
  unfold Obligations.CommandsFollowedByWait
  intro k rest s hidle hopen hideal hsamples i b hi
  obtain ⟨op, hfirst, hclose, himage, hexec⟩ := exec_commandThenWait hidle hopen hi
  rw [hexec, commandThenWait_ideal hideal hidle.1 hsamples hfirst hclose himage]

/-! ## The data commands -/

/-- A constant plane, sent (R119). -/
theorem primitive_sendPlane_ideal {s : State} (hideal : IdealCalls s) (hnone : s.pending = none) (code : Byte)
    {rows : List (List Byte)} (hrows : rows.length = Config.hw.height) :
    primitive (sendPlane Config.hw code rows) s = { s with
      seq := { s.seq with dc := .high }
      hist := s.hist ++ planeEvents code rows
      returns := s.returns ++ [.ok] } := by
  have hsent : (sent .high (planeEvents code rows) s).pending = none := hnone
  rw [primitive, sendPlane_ideal hideal code rows (ne_nil_of_length_height hrows), settle, id, giveBack_of_none hsent]
  rfl

/-- An encoded plane, sent: the encode comes first, and its PLANE space is dead at the end (R55, R59, R119). -/
theorem sendEncoded_ideal {s : State} (hideal : IdealCalls s) {r : RasterArg} (hr : PanelSized r) (code : Byte) (dst : Colour) :
    sendEncoded Config.hw code dst r s = discardPlane dst (giveBack .ok
      (sent .high (planeEvents code (encodeRaster Config.hw (sample Config.hw r.space s))) (encodeInto Config.hw r.space dst s))) := by
  have hencoded : IdealCalls (encodeInto Config.hw r.space dst s) := by rw [IdealCalls, encodeInto_env]; exact hideal
  have hrows := ne_nil_of_length_height (encodeRaster_length Config.hw (sample Config.hw r.space s))
  simp only [sendEncoded, validateArg_of_panelSized hr, planeRows_encodeInto, sendPlane_ideal hencoded code _ hrows, settle, id]

theorem validateArg_of_not_panelSized {r : RasterArg} (h : ¬ PanelSized r) :
    validateArg Config.hw r = some (.sizeMismatch r.w r.h) := if_neg h

/-- A raster of another size ends a data command before anything is sent (R95, R148). -/
theorem sendEncoded_of_not_panelSized {s : State} (hnone : s.pending = none) {r : RasterArg} (hr : ¬ PanelSized r) (code : Byte)
    (dst : Colour) : sendEncoded Config.hw code dst r s = errored s.seq.life (.sizeMismatch r.w r.h) s := by
  simp only [sendEncoded, validateArg_of_not_panelSized hr]
  rw [abort_of_none hnone, lifeAfterError, if_pos rfl]

/-- Both data commands are one helper with a command byte and a PLANE space (R125, R127). -/
theorem exec_dataCommand {s : State} (hidle : Idle s) (hopen : s.seq.life ∈ openLives) {i : PlaneSource → Instr} {b : Byte}
    {col : Colour} (hi : (i, b, col) ∈ [(Instr.dataBlack, (0x10 : Byte), Colour.black), (.dataRed, 0x13, .red)]) (p : PlaneSource) :
    exec (i p) s = .next (sendSource Config.hw b col p s) := by
  simp only [List.mem_cons, Prod.mk.injEq, List.not_mem_nil, or_false] at hi
  rcases hi with ⟨rfl, rfl, rfl⟩ | ⟨rfl, rfl, rfl⟩
  · exact exec_admitted (i := .dataBlack p) hidle hopen
  · exact exec_admitted (i := .dataRed p) hidle hopen

/-- Settles O23: the two constant planes, an encoded raster, and one of another size. -/
theorem dataCommandsSendOnePlane : Obligations.DataCommandsSendOnePlane := by
  unfold Obligations.DataCommandsSendOnePlane
  intro s hidle hopen hideal i b col hi
  refine ⟨?_, fun n => ?_, fun r hr => ?_, fun r hr => ?_⟩
  · rw [exec_dataCommand hidle hopen hi, sendSource, primitive_sendPlane_ideal hideal hidle.1 b (whitePlane_length _)]
  · rw [exec_dataCommand hidle hopen hi, sendSource, primitive_sendPlane_ideal hideal hidle.1 b (stripePlane_length _ n)]
  · have hexec := exec_dataCommand hidle hopen hi (.encoded r)
    rw [sendSource, sendEncoded_ideal hideal hr] at hexec
    refine ⟨_, hexec, ?_, ?_, ?_, ?_, ?_, ?_, ?_, ?_, ?_, fun sp hsp => ?_⟩
    · simp [sent]
    · simp [sent]
    · simp [sent, LastLevel.ofLevel]
    · simp [sent]
    · simp [sent]
    · simp [sent]
    · simp
    · simp [sent, idleEnc]
    · rw [discardPlane, memOf_setMem_same]
    · rw [discardPlane, memOf_setMem_other _ _ _ _ hsp, memOf_giveBack, memOf_sent, encodeInto_memOf_other _ _ _ _ _ hsp]
  · rw [exec_dataCommand hidle hopen hi, sendSource, sendEncoded_of_not_panelSized hidle.1 hr]

end Sys2Proof.Machine
end

section
/-! PROOFS. Admission and the lifecycle: how an admitted instruction ends, how a wait ends, and what CLOSED admits (R131, R132, R143). -/
namespace Sys2Proof.Machine

/-- Settles O37: nothing inside an operation touches the refusal mark (`Keeps`). -/
theorem admittedOperationIsNotRefused : Obligations.AdmittedOperationIsNotRefused := by
  unfold Obligations.AdmittedOperationIsNotRefused
  intro i s hidle hlife
  exact ⟨_, exec_admitted hidle hlife, (meaning_ends i s hlife).2.refused⟩

/-! ## The lifecycle (R131, R132) -/

/-- The history only grows in an operation, so its length tells whether an event was emitted. -/
theorem Keeps.hist_eq_iff {s t : State} (h : Keeps s t) : t.hist.length = s.hist.length ↔ t.hist = s.hist := by
  obtain ⟨l, hl, -⟩ := h.hist
  simp [hl]

/-- The lifecycle value an error leads to (R132). -/
theorem EndsAs.life_of_error {start : Nat} {okLife badLife : Life} {s t : State} (h : EndsAs start okLife badLife s t) {r : OpResult}
    (hret : t.returns = s.returns ++ [r]) (hr : r.isOk = false) :
    t.seq.life = if t.hist.length = start then s.seq.life else badLife := by
  cases h with
  | ok r' hr' hret' =>
    obtain rfl : r' = r := by simpa [hret'] using hret
    cases hr.symm.trans hr'
  | err e hret' hp hl he => exact hl
  | wait op hret' => simp [hret'] at hret

/-- The lifecycle value a success leads to (R131). -/
theorem EndsAs.life_of_ok {start : Nat} {okLife badLife : Life} {s t : State} (h : EndsAs start okLife badLife s t) {r : OpResult}
    (hret : t.returns = s.returns ++ [r]) (hr : r.isOk = true) : t.seq.life = okLife := by
  cases h with
  | ok r' hr' hret' hp hl he => exact hl
  | err e hret' =>
    obtain rfl : .error e = r := by simpa [hret'] using hret
    cases hr
  | wait op hret' => simp [hret'] at hret

/-- An operation ends with one result, or stands in its WAIT_BUSY with nothing returned and its lifecycle value unchanged. -/
theorem EndsAs.returned_or_waits {start : Nat} {okLife badLife : Life} {s t : State} (h : EndsAs start okLife badLife s t) :
    (t.pending = none ∧ ∃ r, t.returns = s.returns ++ [r]) ∨
    (∃ op, t.pending = some ⟨op, start⟩ ∧ t.returns = s.returns ∧ t.seq.life = s.seq.life) := by
  cases h with
  | ok r hr hret hp hl he => exact .inl ⟨hp, r, hret⟩
  | err e hret hp hl he => exact .inl ⟨hp, _, hret⟩
  | wait op hret hp hl he => exact .inr ⟨op, hp, hret, hl⟩

/-- Settles O38: the three ends of an instruction (`EndsAs`), an error with no event told by the length of the history. -/
theorem lifecycleAfterAnOperation : Obligations.LifecycleAfterAnOperation := by
  unfold Obligations.LifecycleAfterAnOperation
  intro i s hidle hlife
  obtain ⟨hends, hkeeps⟩ := meaning_ends i s hlife
  refine ⟨_, exec_admitted hidle hlife, hends.returned_or_waits.imp_left fun ⟨hnone, r, hret⟩ =>
    ⟨hnone, r, hret, fun hr => hends.life_of_ok hret hr, fun hr hhist => ?_, fun hr hhist => ?_⟩⟩
  · rw [hends.life_of_error hret hr, if_pos (hkeeps.hist_eq_iff.2 hhist)]
  · rw [hends.life_of_error hret hr, if_neg (mt hkeeps.hist_eq_iff.1 hhist)]

/-- A move of HOST's made while an operation stands in its WAIT_BUSY leaves it there (R16, R157). -/
theorem runMove_of_pending {p : Pending} {s : State} (hp : s.pending = some p) {m : HostMove} (hm : m ≠ .await) :
    ∃ t, runMove m s = .next t ∧ t.pending = some p ∧ t.returns = s.returns ∧ t.seq.life = s.seq.life := by
  have hbusy : ¬ Idle s := fun hidle => by rw [hidle.1] at hp; cases hp
  cases m with
  | call c => exact ⟨_, busy_refuses hbusy (.inl ⟨c, rfl⟩), hp, rfl, rfl⟩
  | await => exact absurd rfl hm
  | supply col bs => exact ⟨_, busy_refuses hbusy (.inr (.inl ⟨col, bs, rfl⟩)), hp, rfl, rfl⟩
  | start col w h => exact ⟨_, busy_refuses hbusy (.inr (.inr ⟨col, w, h, rfl⟩)), hp, rfl, rfl⟩
  | pixIn px =>
    have hwork := encPixel_work Config.hw px s
    exact ⟨_, rfl, (encPixel_pending Config.hw px s).trans hp, hwork.returns, by rw [hwork.seq]⟩

/-- Settles O39: a further poll ends as `EndsAs` says or goes on waiting; a move that is made meanwhile is refused. -/
theorem lifecycleAfterAWait : Obligations.LifecycleAfterAWait := by
  unfold Obligations.LifecycleAfterAWait
  intro p s hp
  rcases step_cases s with ⟨q, hq, -, hstep⟩ | ⟨m, rest, -, hmoves, hstep⟩ | ⟨-, hnone, -⟩
  · obtain rfl : p = q := Option.some.inj (hp.symm.trans hq)
    obtain ⟨hends, -⟩ := resumeWait_ends Config.hw p s
    refine ⟨_, hstep, ?_⟩
    rcases hends.returned_or_waits with ⟨hnone, r, hret⟩ | ⟨op, hsome, hret, hlife⟩
    · exact .inl ⟨hnone, r, hret, fun hr => hends.life_of_ok hret hr, fun hr => hends.life_of_error hret hr⟩
    · refine .inr ⟨(resumeWait_pending Config.hw p s).resolve_left ?_, hret, hlife⟩
      rw [hsome]; exact nofun
  · have hm : m ≠ .await := hmoves.resolve_left (by rw [hp]; exact nofun)
    obtain ⟨t, hrun, hend⟩ := runMove_of_pending (s := setInbox rest s) hp hm
    exact ⟨t, hstep.trans hrun, .inr hend⟩
  · rw [hp] at hnone; cases hnone

/-! ## CLOSED (R143, R182) -/

/-- No event, no lifecycle transition, and no operation in progress where none was. -/
structure Still (s t : State) : Prop where
  hist : t.hist = s.hist
  life : t.seq.life = s.seq.life
  pending : s.pending = none → t.pending = none

theorem refuse_still (s : State) : Still s (refuse s) := ⟨rfl, rfl, id⟩

/-- CLOSED admits ENCODE_PLANE and nothing else (R132, R143). -/
theorem closed_not_mem_admittedIn {i : Instr} (hi : ∀ r, i ≠ .encodePlane r) : Life.closed ∉ admittedIn i := by
  cases i
  case encodePlane r => exact absurd rfl (hi r)
  all_goals simp [admittedIn]

theorem exec_refused_of_closed {i : Instr} {s : State} (hlife : s.seq.life = .closed) (hi : ∀ r, i ≠ .encodePlane r) :
    exec i s = .next (refuse s) :=
  exec_refused fun hadm => closed_not_mem_admittedIn hi (hlife ▸ hadm.2)

theorem exec_encodePlane_still {r : RasterArg} {s t : State} (h : exec (.encodePlane r) s = .next t) : Still s t := by
  have haside := exec_encodePlane_aside h
  refine ⟨haside.hist, haside.life, fun hnone => ?_⟩
  rw [exec_eq_operation, operation] at h
  split at h <;> cases h
  · exact encodePlane_pending Config.hw r s
  · exact hnone

theorem exec_still_of_closed {i : Instr} {s t : State} (hlife : s.seq.life = .closed) (h : exec i s = .next t) : Still s t := by
  by_cases hi : ∃ r, i = .encodePlane r
  · obtain ⟨r, rfl⟩ := hi
    exact exec_encodePlane_still h
  · rw [exec_refused_of_closed hlife fun r hr => hi ⟨r, hr⟩] at h; cases h
    exact refuse_still s

/-- START opens a stream, returns SizeMismatch or is refused; none of them is an event (R101). -/
theorem encStart_still (c : Config) (col : Colour) (w h : Nat) (s : State) : Still s (encStart c col w h s) := by
  unfold encStart
  split
  · exact refuse_still s
  split
  · exact ⟨rfl, if_pos rfl, fun _ => rfl⟩
  · exact ⟨rfl, rfl, id⟩

theorem supplyRaster_still (col : Colour) (bs : List Byte) (s : State) : Still s (supplyRaster col bs s) := by
  unfold supplyRaster
  split
  · exact refuse_still s
  · exact ⟨by simp, by simp, by simp⟩

theorem runMove_still_of_closed {m : HostMove} {s t : State} (hlife : s.seq.life = .closed) (h : runMove m s = .next t) : Still s t := by
  cases m with
  | call c =>
    rw [runMove] at h
    split at h
    · exact exec_still_of_closed hlife h
    · cases h; exact refuse_still s
  | await => cases h; exact ⟨rfl, rfl, id⟩
  | supply col bs => cases h; exact supplyRaster_still col bs s
  | start col w hh => cases h; exact encStart_still _ col w hh s
  | pixIn px =>
    cases h
    have hwork := encPixel_work Config.hw px s
    exact ⟨hwork.hist, by rw [hwork.seq], (encPixel_pending Config.hw px s).trans⟩

/-- Settles O42: CLOSED admits ENCODE_PLANE only, which emits nothing, and no other move of HOST's is an event of SEQ. -/
theorem nothingIsSentAfterClose : Obligations.NothingIsSentAfterClose := by
  unfold Obligations.NothingIsSentAfterClose
  refine ⟨fun i s hlife hi => exec_refused_of_closed hlife hi, fun r s _ hidle => ?_, fun s t hlife hnone h => ?_⟩
  · exact admittedOperationIsNotRefused (.encodePlane r) s hidle (mem_admittedIn_encodePlane _ r)
  · rcases step_cases s with ⟨p, hp, -, -⟩ | ⟨m, rest, -, -, hstep⟩ | ⟨-, -, hstep⟩
    · rw [hnone] at hp; cases hp
    · have hstill := runMove_still_of_closed (s := setInbox rest s) hlife (hstep ▸ h)
      exact ⟨hstill.hist, hstill.life.trans hlife, hstill.pending hnone⟩
    · rw [hstep] at h; cases h
      exact ⟨rfl, hlife, hnone⟩

end Sys2Proof.Machine
end

section
/-! PROOFS. INITIALIZE and RESET (R133, R134): the steps of each run one by one, for every answer of the platform. -/
namespace Sys2Proof.Machine

/-! ## INITIALIZE (R133, R149) -/

/-- INITIALIZE under way: the answers left to acquisitions and to direction-sets, and the events so far. -/
def acquiring (acq : List Bool) (dirs : List CallAnswer) (l : List Event) (s : State) : State :=
  { s with env := { s.env with acquireAnswers := acq, directionAnswers := dirs }, hist := s.hist ++ l }

theorem eq_acquiring {acq : List Bool} {dirs : List CallAnswer} {s : State} (hacq : s.env.acquireAnswers = acq)
    (hdirs : s.env.directionAnswers = dirs) : s = acquiring acq dirs [] s := by
  simp [acquiring, ← hacq, ← hdirs]

/-- The shape an export and the configuration of the SPI channel share: an event, then ResourceUnavailable if it is denied. -/
def acquire (e : Event) (s : State) : Run :=
  if s.env.acquires then .ok (setEnv s.env.afterAcquire (emit e s))
  else .raised .resourceUnavailable (setEnv s.env.afterAcquire (emit e s))

/-- Four of the seven steps have it (R133). -/
theorem acquireAll_eq (s : State) : acquireAll Config.hw s =
    ((((((acquire (.exported .busy) s).andThen (acquire (.exported .rst))).andThen (acquire (.exported .dc))).andThen
      (setDirection .busy .input)).andThen (setDirection .rst .output)).andThen
      (setDirection .dc .output)).andThen (acquire (.spiConfig (spiFormat Config.hw))) := rfl

section
variable (acq : List Bool) (dirs : List CallAnswer) (l : List Event) (s : State)

/-! A listed answer is taken, and the step ends as it says. -/

theorem acquire_granted (e : Event) :
    acquire e (acquiring (true :: acq) dirs l s) = .ok (acquiring acq dirs (l ++ [e]) s) := by
  simp [acquire, acquiring, Env.acquires, Env.afterAcquire, emit, setEnv]

theorem acquire_denied (e : Event) :
    acquire e (acquiring (false :: acq) dirs l s) = .raised .resourceUnavailable (acquiring acq dirs (l ++ [e]) s) := by
  simp [acquire, acquiring, Env.acquires, Env.afterAcquire, emit, setEnv]

theorem setDirection_granted (ln : Line) (d : Direction) :
    setDirection ln d (acquiring acq (.ok :: dirs) l s) = .ok (acquiring acq dirs (l ++ [.direction ln d]) s) := by
  simp [setDirection, acquiring, Env.directionAnswer, Env.afterDirection, emit, setEnv]

theorem setDirection_denied (ln : Line) (d : Direction) (e : Nat) : setDirection ln d (acquiring acq (.err e :: dirs) l s) =
    .raised (.transport e) (acquiring acq dirs (l ++ [.direction ln d]) s) := by
  simp [setDirection, acquiring, Env.directionAnswer, Env.afterDirection, emit, setEnv]

variable {s} (hideal : s.env.ideal = true)
include hideal

/-! Where no answer is listed the ideal platform grants all (R133). -/

theorem acquire_ideal (e : Event) : acquire e (acquiring [] dirs l s) = .ok (acquiring [] dirs (l ++ [e]) s) := by
  simp [acquire, acquiring, Env.acquires, Env.afterAcquire, emit, setEnv, hideal]

theorem setDirection_ideal (ln : Line) (d : Direction) :
    setDirection ln d (acquiring acq [] l s) = .ok (acquiring acq [] (l ++ [.direction ln d]) s) := by
  simp [setDirection, acquiring, Env.directionAnswer, Env.afterDirection, emit, setEnv, hideal]

/-- The seven steps of R133, none of which fails. -/
theorem acquireAll_ideal : acquireAll Config.hw (acquiring [] [] [] s) = .ok (acquiring [] [] initEvents s) := by
  simp only [acquireAll_eq, acquire_ideal _ _ hideal, setDirection_ideal _ _ hideal, Run.andThen_ok]
  rfl

end

section
variable (acq : List Bool) (dirs : List CallAnswer) (s : State)

/-- Export number `n + 1` fails: nothing after it is tried. -/
theorem acquireAll_export_denied {n : Nat} (hn : n < 3) :
    acquireAll Config.hw (acquiring (List.replicate n true ++ false :: acq) dirs [] s) =
      .raised .resourceUnavailable (acquiring acq dirs (initEvents.take (n + 1)) s) := by
  match n with
  | 0 | 1 | 2 =>
    simp only [acquireAll_eq, List.replicate, List.cons_append, List.nil_append, acquire_granted, acquire_denied,
      Run.andThen_ok, Run.andThen_raised]
    rfl

/-- Direction-set number `n + 1` fails (log 15). -/
theorem acquireAll_direction_denied {n : Nat} (hn : n < 3) (e : Nat) :
    acquireAll Config.hw (acquiring (true :: true :: true :: acq) (List.replicate n .ok ++ .err e :: dirs) [] s) =
      .raised (.transport e) (acquiring acq dirs (initEvents.take (n + 4)) s) := by
  match n with
  | 0 | 1 | 2 =>
    simp only [acquireAll_eq, List.replicate, List.cons_append, List.nil_append, acquire_granted, setDirection_granted,
      setDirection_denied, Run.andThen_ok, Run.andThen_raised]
    rfl

/-- The configuration of the SPI channel fails, the last of the seven. -/
theorem acquireAll_spi_denied :
    acquireAll Config.hw (acquiring (true :: true :: true :: false :: acq) (.ok :: .ok :: .ok :: dirs) [] s) =
      .raised .resourceUnavailable (acquiring acq dirs initEvents s) := by
  simp only [acquireAll_eq, acquire_granted, setDirection_granted, acquire_denied, Run.andThen_ok]
  rfl

end

theorem exec_initialise {s : State} (hidle : Idle s) (hlife : s.seq.life = .constructed) :
    exec .initialise s = .next (initialiseLines Config.hw s) :=
  exec_admitted (i := .initialise) hidle (hlife ▸ List.mem_singleton_self _)

theorem initialiseLines_of_ok {c : Config} {s t : State} (h : acquireAll c s = .ok t) :
    initialiseLines c s = giveBack .ok (setLife .ready t) := by
  simp only [initialiseLines, h]

theorem initialiseLines_of_raised {c : Config} {e : Error} {s t : State} (h : acquireAll c s = .raised e t) :
    initialiseLines c s = abortTo .unusable e t := by
  simp only [initialiseLines, h]

/-- Settles O24: the seven steps succeed one by one (`acquireAll_ideal`). -/
theorem initialiseAcquiresEverything : Obligations.InitialiseAcquiresEverything := by
  unfold Obligations.InitialiseAcquiresEverything
  intro s hidle hlife ⟨hideal, _, _, hacq, hdirs⟩
  have hrun : acquireAll Config.hw s = .ok (acquiring [] [] initEvents s) :=
    (congrArg _ (eq_acquiring hacq hdirs)).trans (acquireAll_ideal hideal)
  have hnone : (setLife .ready (acquiring [] [] initEvents s)).pending = none := hidle.1
  rw [exec_initialise hidle hlife, initialiseLines_of_ok hrun, giveBack_of_none hnone, acquiring, ← hacq, ← hdirs]
  rfl

/-- An INITIALIZE whose steps raise leaves the block UNUSABLE (R149). -/
theorem exec_initialise_of_raised {e : Error} {s t : State} (hidle : Idle s) (hlife : s.seq.life = .constructed)
    (hrun : acquireAll Config.hw s = .raised e t) (hnone : t.pending = none) :
    exec .initialise s = .next (errored .unusable e t) := by
  have hstill : (setLife .unusable (noteError e t)).pending = none := hnone
  rw [exec_initialise hidle hlife, initialiseLines_of_raised hrun, abortTo, giveBack_of_none hstill]
  rfl

/-- Settles O25: the first step that fails is the last that is taken. -/
theorem initialiseFailureLeavesUnusable : Obligations.InitialiseFailureLeavesUnusable := by
  unfold Obligations.InitialiseFailureLeavesUnusable
  intro s hidle hlife
  refine ⟨fun n rest hn hacq => ?_, fun n e ra rd hn hacq hdirs => ?_, fun ra rd hacq hdirs => ?_⟩
  · exact exec_initialise_of_raised hidle hlife
      ((congrArg _ (eq_acquiring hacq rfl)).trans (acquireAll_export_denied rest _ s hn)) hidle.1
  · exact exec_initialise_of_raised hidle hlife
      ((congrArg _ (eq_acquiring hacq hdirs)).trans (acquireAll_direction_denied ra rd s hn e)) hidle.1
  · exact exec_initialise_of_raised hidle hlife
      ((congrArg _ (eq_acquiring hacq hdirs)).trans (acquireAll_spi_denied ra rd s)) hidle.1

/-! ## RESET (R134, R174) -/

/-- RESET under way: the level last written to RST, the answers left to line writes, and the events so far. -/
def pulsing (rst : LastLevel) (lines : List CallAnswer) (l : List Event) (s : State) : State :=
  { s with seq := { s.seq with rst := rst }, env := { s.env with lineAnswers := lines }, hist := s.hist ++ l }

theorem eq_pulsing {lines : List CallAnswer} {s : State} (hlines : s.env.lineAnswers = lines) :
    s = pulsing s.seq.rst lines [] s := by
  simp [pulsing, ← hlines]

theorem hw_settleMs : Config.hw.settleMs = 200 := rfl

section
variable (rst : LastLevel) (lines : List CallAnswer) (l : List Event) (s : State) (lv : Level)

theorem holdRst_of_ok : holdRst Config.hw lv (pulsing rst (.ok :: lines) l s) =
    .ok (pulsing (.ofLevel lv) lines (l ++ [.rst lv, .sleep 200]) s) := by
  simp [holdRst, lineWrite, pulsing, Env.lineAnswer, Env.afterLine, emit, setEnv, setLine, delay, lineEvent, hw_settleMs]

/-- A failing write is an event, but the level is not remembered and not held (R29, R109). -/
theorem holdRst_of_err (e : Nat) : holdRst Config.hw lv (pulsing rst (.err e :: lines) l s) =
    .raised (.transport e) (pulsing rst lines (l ++ [.rst lv]) s) := by
  simp [holdRst, lineWrite, pulsing, Env.lineAnswer, Env.afterLine, emit, setEnv, lineEvent]

theorem holdRst_ideal {s : State} (hideal : s.env.ideal = true) : holdRst Config.hw lv (pulsing rst [] l s) =
    .ok (pulsing (.ofLevel lv) [] (l ++ [.rst lv, .sleep 200]) s) := by
  simp [holdRst, lineWrite, pulsing, Env.lineAnswer, Env.afterLine, emit, setEnv, setLine, delay, lineEvent, hideal, hw_settleMs]

theorem resetPulse_of_ok :
    resetPulse Config.hw (pulsing rst (.ok :: .ok :: .ok :: lines) [] s) = .ok (pulsing .high lines pulseEvents s) := by
  simp only [resetPulse, holdRst_of_ok, Run.andThen_ok]
  rfl

theorem resetPulse_ideal {s : State} (hideal : s.env.ideal = true) :
    resetPulse Config.hw (pulsing rst [] [] s) = .ok (pulsing .high [] pulseEvents s) := by
  simp only [resetPulse, holdRst_ideal _ _ _ hideal, Run.andThen_ok]
  rfl

/-- Line write number `n + 1` fails: the pulse ends there (R155, R174). -/
theorem resetPulse_of_err {n : Nat} (hn : n < 3) (e : Nat) :
    resetPulse Config.hw (pulsing rst (List.replicate n .ok ++ .err e :: lines) [] s) = .raised (.transport e)
      (pulsing (if n = 0 then rst else if n = 1 then .high else .low) lines (pulseEvents.take (2 * n + 1)) s) := by
  match n with
  | 0 | 1 | 2 =>
    simp only [resetPulse, List.replicate, List.cons_append, List.nil_append, holdRst_of_ok, holdRst_of_err, Run.andThen_ok,
      Run.andThen_raised]
    rfl

end

theorem exec_reset_of_ok {s : State} {lines : List CallAnswer} (hidle : Idle s) (hopen : s.seq.life ∈ openLives)
    (hrun : resetPulse Config.hw s = .ok (pulsing .high lines pulseEvents s)) :
    exec .reset s = .next { s with
      seq := { s.seq with rst := .high, life := .resetDone }
      env := { s.env with lineAnswers := lines }
      hist := s.hist ++ pulseEvents
      returns := s.returns ++ [.ok] } := by
  have hnone : (setLife .resetDone (pulsing .high lines pulseEvents s)).pending = none := hidle.1
  rw [exec_admitted (i := .reset) hidle hopen, meaning, resetPanel, hrun, settle, giveBack_of_none hnone]
  rfl

/-- Settles O26: three writes, each held, or the first that fails. -/
theorem resetGivesThePulse : Obligations.ResetGivesThePulse := by
  unfold Obligations.ResetGivesThePulse
  intro s hidle hopen
  refine ⟨fun ⟨hideal, hlines, _⟩ => ?_, fun rest hlines => ?_, fun n e rest hn hlines => ?_⟩
  · rw [exec_reset_of_ok hidle hopen ((congrArg _ (eq_pulsing hlines)).trans (resetPulse_ideal _ hideal)), ← hlines]
    rfl
  · exact exec_reset_of_ok hidle hopen ((congrArg _ (eq_pulsing hlines)).trans (resetPulse_of_ok _ rest s))
  · have hrun := (congrArg _ (eq_pulsing hlines)).trans (resetPulse_of_err s.seq.rst rest s hn e)
    have hemitted : pulseEvents.take (2 * n + 1) ≠ [] := by simp [pulseEvents]
    have hnone : ∀ rst l, (pulsing rst rest l s).pending = none := fun _ _ => hidle.1
    rw [exec_admitted (i := .reset) hidle hopen, meaning, resetPanel, hrun, settle, abort_of_none (hnone _ _),
      lifeAfterError_of_append rfl, if_neg hemitted]
    rfl

end Sys2Proof.Machine
end

section
/-! PROOFS. FIRST_SEQUENCE, CLOSE and the image operations on the ideal platform (R135 to R142). -/
namespace Sys2Proof.Machine

/-- Steps that were sent on the ideal platform, then the wait up to the ready sample (R116). -/
theorem thenWait_of_sent {k : Nat} {rest : List BusyAnswer} {s : State} {r : Run} {lv : Level} {l : List Event}
    (hsent : r = .ok (sent lv l s)) (hsamples : s.env.busySamples = readyAfter k rest) (p : Pending) :
    thenWait Config.hw p r = conclude Config.hw p (waited rest (waitEvents k) (sent lv l s)) := by
  have hready : (sent lv l s).env.busySamples = readyAfter k rest := hsamples
  rw [hsent, thenWait, enterWait_of_ready hready]

/-! ## FIRST_SEQUENCE and CLOSE (R135, R142) -/

/-- FIRST_SEQUENCE and CLOSE once their steps before the wait are done: the wait, a command of one parameter, and the lifecycle
transition (R116, R131). -/
theorem settle_after_wait {k : Nat} {rest : List BusyAnswer} {s : State} (hideal : IdealCalls s) (start : Nat) (life : Life)
    (l : List Event) (code param : Byte) :
    settle start (setLife life) (sendCommand Config.hw code [param] (waited rest (waitEvents k) (sent .low l s))) = { s with
      seq := { s.seq with dc := .high, life := life }
      env := { s.env with busySamples := rest }
      hist := s.hist ++ (l ++ waitEvents k ++ byteEvents .low code ++ byteEvents .high param)
      pending := none
      returns := s.returns ++ [.ok] } := by
  have hcalls : IdealCalls (waited rest (waitEvents k) (sent .low l s)) := hideal
  rw [settle_sendCommand_ideal hcalls]
  simp only [waited, sent, List.append_assoc]

/-- The commands FIRST_SEQUENCE sends before its wait (R135). -/
theorem sendPowerUp_ideal {s : State} (hideal : IdealCalls s) :
    (sendCommand Config.hw 0x06 (boosterParams Config.hw) s).andThen (sendCommandByte Config.hw 0x04) =
      .ok (sent .low (byteEvents .low 0x06 ++ byteEvents .high Config.hw.btstP0 ++ byteEvents .high Config.hw.btstP1 ++
        byteEvents .high Config.hw.btstP2 ++ byteEvents .low 0x04) s) := by
  rw [boosterParams, sendCommand_three_ideal hideal, Run.andThen_ok, sendCommandByte_ideal (sent_ideal hideal), sent_sent]

/-- Settles O27: the commands before the wait, the wait, and the rest of the sequence (`settle_after_wait`). -/
theorem firstSequenceInExactOrder : Obligations.FirstSequenceInExactOrder := by
  unfold Obligations.FirstSequenceInExactOrder
  intro k rest s hidle hlife hideal hsamples
  have hexec : exec .firstSequence s = .next (thenWait Config.hw ⟨.firstSequence, s.hist.length⟩
      ((sendCommand Config.hw 0x06 (boosterParams Config.hw) s).andThen (sendCommandByte Config.hw 0x04))) :=
    exec_admitted (i := .firstSequence) hidle (hlife ▸ List.mem_singleton_self _)
  rw [hexec, thenWait_of_sent (sendPowerUp_ideal hideal) hsamples]
  simp only [conclude]
  rw [settle_after_wait hideal, hidle.1]
  rfl

/-- Settles O33: the command before the wait, the wait, and the rest of the sequence (`settle_after_wait`). -/
theorem closeInExactOrder : Obligations.CloseInExactOrder := by
  unfold Obligations.CloseInExactOrder
  intro k rest s hidle hopen hideal hsamples
  have hexec : exec .close s = .next (commandThenWait Config.hw .close 0x02 s) := exec_admitted (i := .close) hidle hopen
  rw [hexec, commandThenWait, thenWait_of_sent (sendCommandByte_ideal hideal 0x02) hsamples]
  simp only [conclude]
  rw [settle_after_wait hideal, hidle.1]
  rfl

/-! ## CLEAR_DISPLAY and PRINT_TRICOLOR (R136, R137) -/

/-- Two planes that need no encode: the frame, the wait, Ok. -/
theorem thenWait_sendFrame_ideal {op : Waiting} {k : Nat} {rest : List BusyAnswer} {s : State} (hideal : IdealCalls s)
    (hnone : s.pending = none) (hsamples : s.env.busySamples = readyAfter k rest) (hfirst : op ≠ .firstSequence)
    (hclose : op ≠ .close) (himage : op ≠ .printImage) {black red : List (List Byte)} (hblack : black.length = Config.hw.height)
    (hred : red.length = Config.hw.height) :
    thenWait Config.hw ⟨op, s.hist.length⟩ (sendFrame Config.hw black red s) = { s with
      seq := { s.seq with dc := .low }
      env := { s.env with busySamples := rest }
      hist := s.hist ++ (frameEvents black red ++ waitEvents k)
      returns := s.returns ++ [.ok] } := by
  have hframe := sendFrame_ideal hideal black red (ne_nil_of_length_height hblack) (ne_nil_of_length_height hred)
  have hstill : (waited rest (waitEvents k) (sent .low (frameEvents black red) s)).pending = none := hnone
  rw [thenWait_of_sent hframe hsamples, conclude_of_last hfirst hclose himage, giveBack_of_none hstill,
    ← List.append_assoc]
  rfl

/-- WHITE_PLANE by its bytes (R92). -/
theorem whitePlane_eq : whitePlane Config.hw = List.replicate 300 (List.replicate 50 0xFF) := rfl

/-- STRIPE_PLANE as its white rows and its ink rows (R93). -/
theorem stripePlane_eq_append {c : Config} {n m : Nat} (h : n + m = c.height) :
    stripePlane c n =
      List.replicate n (List.replicate c.bytesPerRow c.whiteByte) ++ List.replicate m (List.replicate c.bytesPerRow c.inkByte) := by
  rw [stripePlane, ← h, List.range_add, List.map_append, List.map_map]
  congr 1
  · exact List.eq_replicate_iff.2 ⟨by simp, fun row hrow => by
      obtain ⟨y, hy, rfl⟩ := List.mem_map.1 hrow
      rw [if_pos (List.mem_range.1 hy)]⟩
  · exact List.eq_replicate_iff.2 ⟨by simp, fun row hrow => by
      obtain ⟨y, -, rfl⟩ := List.mem_map.1 hrow
      simp⟩

/-- The planes of PRINT_TRICOLOR by their bytes (R137, R138). -/
theorem tricolorBlack_eq : stripePlane Config.hw Config.hw.tricolorBlackRow =
    List.replicate 100 (List.replicate 50 0xFF) ++ List.replicate 200 (List.replicate 50 0x00) :=
  stripePlane_eq_append (c := Config.hw) (n := 100) (m := 200) rfl

theorem tricolorRed_eq : stripePlane Config.hw Config.hw.tricolorRedRow =
    List.replicate 200 (List.replicate 50 0xFF) ++ List.replicate 100 (List.replicate 50 0x00) :=
  stripePlane_eq_append (c := Config.hw) (n := 200) (m := 100) rfl

/-- Settles O29: both planes are the white plane. -/
theorem clearDisplaySendsTwoWhitePlanes : Obligations.ClearDisplaySendsTwoWhitePlanes := by
  unfold Obligations.ClearDisplaySendsTwoWhitePlanes
  intro k rest s hidle hlife hideal hsamples
  rw [exec_admitted (i := .clearDisplay) hidle (hlife ▸ List.mem_singleton_self _), meaning, clearDisplay,
    thenWait_sendFrame_ideal (op := .clearDisplay) hideal hidle.1 hsamples nofun nofun nofun (whitePlane_length _)
      (whitePlane_length _), whitePlane_eq]

/-- Settles O30: the planes are stripe planes of 100 and of 200 white rows (R138). -/
theorem printTricolorSendsTheStripes : Obligations.PrintTricolorSendsTheStripes := by
  unfold Obligations.PrintTricolorSendsTheStripes
  intro k rest s hidle hlife hideal hsamples
  rw [exec_admitted (i := .printTricolor) hidle (hlife ▸ List.mem_singleton_self _), meaning, printTricolor,
    thenWait_sendFrame_ideal (op := .printTricolor) hideal hidle.1 hsamples nofun nofun nofun (stripePlane_length _ _)
      (stripePlane_length _ _), tricolorBlack_eq, tricolorRed_eq]

/-! ## PRINT_IMAGE (R139, R141) -/

/-- The rows SEQ reads depend on their PLANE space only. -/
theorem planeRows_congr {c : Config} {col : Colour} {s t : State} (h : memOf col.planeSpace s = memOf col.planeSpace t) :
    planeRows c col s = planeRows c col t := by
  simp only [planeRows, planeByte, readByte_congr _ _ _ _ h]

/-- The black rows that are sent, whether or not a red raster was encoded after the first (R94). -/
theorem planeRows_black_planesEncoded (r : RasterArg) (red : Option RasterArg) (s : State) :
    planeRows Config.hw .black (planesEncoded r red s) = encodeRaster Config.hw (sample Config.hw r.space s) := by
  rw [planeRows_congr (col := .black) (planesEncoded_planeK r red s), planeRows_encodeInto]

/-- The red plane of PRINT_IMAGE as a function of the rasters: an encoding, or the white plane (R94, R141). -/
def redPlane (red : Option RasterArg) (s : State) : List (List Byte) :=
  red.elim (whitePlane Config.hw) fun q => encodeRaster Config.hw (sample Config.hw q.space s)

theorem redRows_planesEncoded (r : RasterArg) (red : Option RasterArg) (s : State) :
    redRows Config.hw red (planesEncoded r red s) = redPlane red s := by
  cases red with
  | none => rfl
  | some q => exact (planeRows_encodeInto _ _ _ _).trans (congrArg _ (sample_encodeInto _ _ _ _ _))

/-- The whole of PRINT_IMAGE: the encodes, the frame, the wait, Ok, and the loss of both planes (R59, R139). -/
theorem exec_printImage_ideal {k : Nat} {rest : List BusyAnswer} {r : RasterArg} {red : Option RasterArg} {s : State} (hidle : Idle s)
    (hlife : s.seq.life = .sequenced) (hideal : IdealCalls s) (hsamples : s.env.busySamples = readyAfter k rest)
    (hr : PanelSized r) (hred : ∀ q, red = some q → PanelSized q) :
    exec (.printImage r red) s = .next (giveBack .ok (discardPlanes (waited rest (waitEvents k)
      (sent .low (frameEvents (encodeRaster Config.hw (sample Config.hw r.space s)) (redPlane red s)) (planesEncoded r red s))))) := by
  have hready : (frameSent r red s).env.busySamples = readyAfter k rest := by
    rw [← hsamples, ← planesEncoded_env r red s]; rfl
  rw [exec_admitted (i := .printImage r red) hidle (hlife ▸ List.mem_singleton_self _), meaning, printImage_ideal hideal hr hred,
    enterWait_of_ready hready, frameSent, planeRows_black_planesEncoded, redRows_planesEncoded]
  rfl

theorem planesEncoded_idle (r : RasterArg) (red : Option RasterArg) (s : State) : (planesEncoded r red s).enc.active = false := by
  cases red <;> simp [planesEncoded, encodeRed, idleEnc]

theorem planesEncoded_seq (r : RasterArg) (red : Option RasterArg) (s : State) : (planesEncoded r red s).seq = s.seq := by
  cases red <;> simp [planesEncoded, encodeRed]

theorem planesEncoded_hist (r : RasterArg) (red : Option RasterArg) (s : State) : (planesEncoded r red s).hist = s.hist := by
  cases red <;> simp [planesEncoded, encodeRed]

/-- Settles O31: the frame holds the planes the two encodes made, which leave SEQ, the queue and the rasters alone. -/
theorem printImageSendsTheEncodedPlanes : Obligations.PrintImageSendsTheEncodedPlanes := by
  unfold Obligations.PrintImageSendsTheEncodedPlanes
  intro k rest r red s hidle hlife hideal hsamples hr hred
  have hinside := planesEncoded_inside r red s
  refine ⟨_, exec_printImage_ideal hidle hlife hideal hsamples hr hred, ?_, ?_, ?_, ?_, hinside.inbox, hinside.refused, rfl,
    planesEncoded_idle r red s, hinside.rasterK, hinside.rasterR, rfl, rfl⟩
  · simp only [giveBack_hist, discardPlanes_hist, waited, sent, planesEncoded_hist, List.append_assoc]
    cases red <;> rfl
  · simp [waited, sent, hinside.returns]
  · simp [waited, sent, planesEncoded_seq, LastLevel.ofLevel]
  · simp [waited, sent, planesEncoded_env]

end Sys2Proof.Machine
end

section
/-! PROOFS. The sizes of the composite operations (R145). -/
namespace Sys2Proof.Machine

/-! ## Counting a history -/

/-- Events, SPI transactions and bytes. -/
def sizes (l : List Event) : Nat × Nat × Nat := (l.length, spiCount l, (bytesSent l).length)

theorem sizes_append (l l' : List Event) : sizes (l ++ l') = sizes l + sizes l' := by
  simp [sizes, spiCount, bytesSent]

theorem sizes_byteEvents (lv : Level) (b : Byte) : sizes (byteEvents lv b) = (2, 1, 1) := rfl

theorem sizes_busyEvents (k : Nat) : sizes (busyEvents k) = (2 * k, 0, 0) := by
  induction k with
  | zero => rfl
  | succ k ih =>
    have hone : busyEvents (k + 1) = [.busy 0, .sleep 200] ++ busyEvents k := rfl
    have htwo : sizes [.busy 0, .sleep 200] = (2, 0, 0) := rfl
    rw [hone, sizes_append, ih, htwo, Prod.mk_add_mk, Prod.mk_add_mk, Nat.mul_succ, Nat.add_comm 2]

/-- `b` samples, the last of which reads ready, with a sleep between them (R116). -/
theorem sizes_waitEvents {b : Nat} (hb : 1 ≤ b) : sizes (waitEvents (b - 1)) = (2 * b - 1, 0, 0) := by
  have hone : sizes [.busy 1] = (1, 0, 0) := rfl
  rw [waitEvents, sizes_append, sizes_busyEvents, hone, Prod.mk_add_mk, Prod.mk_add_mk]
  congr 1; omega

theorem sizes_rows {rows : List (List Byte)} (h : ∀ row ∈ rows, row.length = 50) :
    sizes (rows.flatMap rowEvents) = (2 * rows.length, rows.length, 50 * rows.length) := by
  induction rows with
  | nil => rfl
  | cons row rows ih =>
    have hrow : sizes (rowEvents row) = (2, 1, 50) := by
      simp [sizes, rowEvents, spiCount, bytesSent, h row (List.mem_cons_self ..)]
    rw [List.flatMap_cons, sizes_append, hrow, ih fun r hr => h r (List.mem_cons_of_mem _ hr)]
    simp only [Prod.mk_add_mk, List.length_cons, Prod.mk.injEq]
    omega

/-- A plane of the panel's format (R64, R65). -/
def PanelPlane (rows : List (List Byte)) : Prop := rows.length = 300 ∧ ∀ row ∈ rows, row.length = 50

theorem whitePlane_panelPlane : PanelPlane (whitePlane Config.hw) := ⟨whitePlane_length _, whitePlane_row_length _⟩

theorem encodeRaster_panelPlane (R : Nat → Nat → Byte) : PanelPlane (encodeRaster Config.hw R) :=
  ⟨encodeRaster_length _ R, encodeRaster_row_length _ R⟩

theorem stripePlane_panelPlane (n : Nat) : PanelPlane (stripePlane Config.hw n) :=
  ⟨stripePlane_length _ n, stripePlane_row_length _ n⟩

theorem sizes_planeEvents {rows : List (List Byte)} (h : PanelPlane rows) (code : Byte) :
    sizes (planeEvents code rows) = (602, 301, 15001) := by
  rw [planeEvents, sizes_append, sizes_byteEvents, sizes_rows h.2, h.1]; rfl

/-- Two planes and the refresh command. -/
theorem sizes_frameEvents {black red : List (List Byte)} (hblack : PanelPlane black) (hred : PanelPlane red) :
    sizes (frameEvents black red) = (1206, 603, 30003) := by
  rw [frameEvents, sizes_append, sizes_append, sizes_planeEvents hblack, sizes_planeEvents hred, sizes_byteEvents]; rfl

/-! ## The operations -/

/-- The instruction returns Ok and appends events of these sizes. -/
def OkWithSizes (i : Instr) (s : State) (n : Nat × Nat × Nat) : Prop :=
  ∃ t l, exec i s = .next t ∧ t.hist = s.hist ++ l ∧ t.returns = s.returns ++ [.ok] ∧ sizes l = n

section
variable {s : State} (hidle : Idle s) (hideal : IdealCalls s)
include hidle hideal

theorem initialise_sizes (hlife : s.seq.life = .constructed) : OkWithSizes .initialise s (7, 0, 0) :=
  ⟨_, initEvents, initialiseAcquiresEverything s hidle hlife hideal, rfl, rfl, rfl⟩

theorem reset_sizes (hopen : s.seq.life ∈ openLives) : OkWithSizes .reset s (6, 0, 0) :=
  ⟨_, pulseEvents, (resetGivesThePulse s hidle hopen).1 hideal, rfl, rfl, rfl⟩

variable {b : Nat} {rest : List BusyAnswer} (hb : 1 ≤ b) (hsamples : s.env.busySamples = readyAfter (b - 1) rest)
include hb hsamples

omit hideal in
theorem waitBusy_sizes (hopen : s.seq.life ∈ openLives) : OkWithSizes .waitBusy s (2 * b - 1, 0, 0) :=
  ⟨_, waitEvents (b - 1), waitBusyReturnsAtFirstReadySample _ rest s hidle hopen hsamples, List.append_assoc .., rfl,
    sizes_waitEvents hb⟩

theorem firstSequence_sizes (hlife : s.seq.life = .resetDone) : OkWithSizes .firstSequence s (14 + (2 * b - 1), 7, 7) := by
  refine ⟨_, _, firstSequenceInExactOrder _ rest s hidle hlife hideal hsamples, rfl, rfl, ?_⟩
  simp only [sizes_append, sizes_byteEvents, sizes_waitEvents hb, Prod.mk_add_mk, Prod.mk.injEq, and_true]
  omega

theorem close_sizes (hopen : s.seq.life ∈ openLives) : OkWithSizes .close s (6 + (2 * b - 1), 3, 3) := by
  refine ⟨_, _, closeInExactOrder _ rest s hidle hopen hideal hsamples, rfl, rfl, ?_⟩
  simp only [sizes_append, sizes_byteEvents, sizes_waitEvents hb, Prod.mk_add_mk, Prod.mk.injEq, and_true]
  omega

omit hidle hideal hsamples in
/-- A frame and its wait, the history of every image operation. -/
theorem sizes_frame_wait {black red : List (List Byte)} (hblack : PanelPlane black) (hred : PanelPlane red) :
    sizes (frameEvents black red ++ waitEvents (b - 1)) = (1206 + (2 * b - 1), 603, 30003) := by
  rw [sizes_append, sizes_frameEvents hblack hred, sizes_waitEvents hb, Prod.mk_add_mk, Prod.mk_add_mk]

theorem clearDisplay_sizes (hlife : s.seq.life = .sequenced) : OkWithSizes .clearDisplay s (1206 + (2 * b - 1), 603, 30003) :=
  ⟨_, _, clearDisplaySendsTwoWhitePlanes _ rest s hidle hlife hideal hsamples, rfl, rfl,
    sizes_frame_wait hb whitePlane_panelPlane whitePlane_panelPlane⟩

theorem printTricolor_sizes (hlife : s.seq.life = .sequenced) : OkWithSizes .printTricolor s (1206 + (2 * b - 1), 603, 30003) := by
  refine ⟨_, _, printTricolorSendsTheStripes _ rest s hidle hlife hideal hsamples, rfl, rfl, ?_⟩
  rw [← tricolorBlack_eq, ← tricolorRed_eq]
  exact sizes_frame_wait hb (stripePlane_panelPlane _) (stripePlane_panelPlane _)

theorem printImage_sizes (hlife : s.seq.life = .sequenced) {r : RasterArg} {red : Option RasterArg} (hr : PanelSized r)
    (hred : ∀ q, red = some q → PanelSized q) : OkWithSizes (.printImage r red) s (1206 + (2 * b - 1), 603, 30003) := by
  obtain ⟨t, hexec, hhist, hreturns, -⟩ := printImageSendsTheEncodedPlanes _ rest r red s hidle hlife hideal hsamples hr hred
  refine ⟨t, _, hexec, hhist, hreturns, sizes_frame_wait hb (encodeRaster_panelPlane _) ?_⟩
  cases red with
  | none => exact whitePlane_panelPlane
  | some q => exact encodeRaster_panelPlane _

end

/-- Settles O34: one case for each operation, its events taken from the statement about it. -/
theorem sizesOfTheSequences : Obligations.SizesOfTheSequences := by
  unfold Obligations.SizesOfTheSequences
  intro b rest s r red hb hidle hideal hsamples hr hred i life events transactions bytes hi hlife
  suffices h : OkWithSizes i s (events, transactions, bytes) by
    obtain ⟨t, l, hexec, hhist, hreturns, hsizes⟩ := h
    simp only [sizes, Prod.mk.injEq] at hsizes
    exact ⟨t, l, hexec, hhist, hreturns, hsizes⟩
  have hopen (hnow : life ∈ openLives) : s.seq.life ∈ openLives := hlife ▸ hnow
  simp only [List.mem_cons, Prod.mk.injEq, List.not_mem_nil, or_false] at hi
  rcases hi with ⟨rfl, rfl, rfl, rfl, rfl⟩ | ⟨rfl, rfl, rfl, rfl, rfl⟩ | ⟨rfl, rfl, rfl, rfl, rfl⟩ | ⟨rfl, rfl, rfl, rfl, rfl⟩ |
    ⟨rfl, rfl, rfl, rfl, rfl⟩ | ⟨rfl, rfl, rfl, rfl, rfl⟩ | ⟨rfl, rfl, rfl, rfl, rfl⟩ | ⟨rfl, rfl, rfl, rfl, rfl⟩
  · exact initialise_sizes hidle hideal hlife
  · exact reset_sizes hidle hideal (hopen (by decide))
  · exact waitBusy_sizes hidle hb hsamples (hopen (by decide))
  · exact firstSequence_sizes hidle hideal hb hsamples hlife
  · exact clearDisplay_sizes hidle hideal hb hsamples hlife
  · exact printTricolor_sizes hidle hideal hb hsamples hlife
  · exact printImage_sizes hidle hideal hb hsamples hlife hr hred
  · exact close_sizes hidle hideal hb hsamples (hopen (by decide))

end Sys2Proof.Machine
end

section
/-! PROOFS. Size mismatch and refusal: the two ends of a move that leave the block as it was (R148, R157). -/
namespace Sys2Proof.Machine

/-! ## SizeMismatch (R95, R148) -/

/-- An operation that fails before its first event keeps its lifecycle value (R132). -/
theorem abort_at_start {s : State} (h : s.pending = none) (e : Error) : abort s.hist.length e s = errored s.seq.life e s := by
  rw [abort_of_none h, lifeAfterError, if_pos rfl]

theorem encodePlane_of_not_panelSized {r : RasterArg} {s : State} (hnone : s.pending = none) (hr : ¬ PanelSized r) :
    encodePlane Config.hw r s = errored s.seq.life (.sizeMismatch r.w r.h) s := by
  simp only [encodePlane, validateArg_of_not_panelSized hr, abort_at_start hnone]

/-- The first raster is validated before the second is looked at (R140). -/
theorem printImage_of_first_not_panelSized {r : RasterArg} {s : State} (hnone : s.pending = none) (hr : ¬ PanelSized r)
    (red : Option RasterArg) : printImage Config.hw r red s = errored s.seq.life (.sizeMismatch r.w r.h) s := by
  simp only [printImage, validateArg_of_not_panelSized hr, abort_at_start hnone]

theorem printImage_of_red_not_panelSized {r q : RasterArg} {s : State} (hnone : s.pending = none) (hr : PanelSized r)
    (hq : ¬ PanelSized q) : printImage Config.hw r (some q) s = errored s.seq.life (.sizeMismatch q.w q.h) s := by
  simp only [printImage, validateArg_of_panelSized hr, validateOpt, validateArg_of_not_panelSized hq, abort_at_start hnone]

theorem inProgress_of_idle {s : State} (h : Idle s) : inProgress s = false := by
  obtain ⟨hpending, hactive⟩ := h
  simp [inProgress, hpending, hactive]

theorem encStart_of_wrong_size {w h : Nat} {s : State} (hidle : Idle s) (hsize : ¬ (w = 400 ∧ h = 300)) (col : Colour) :
    encStart Config.hw col w h s = errored s.seq.life (.sizeMismatch w h) s := by
  have hvalidate : validate Config.hw w h = some (.sizeMismatch w h) := if_neg hsize
  rw [encStart, inProgress_of_idle hidle, hvalidate]
  exact abort_at_start hidle.1 _

/-- Settles O13: the validations come first, and an abort at the start is `errored` in the lifecycle value that was. -/
theorem wrongSizeChangesNothing : Obligations.WrongSizeChangesNothing := by
  unfold Obligations.WrongSizeChangesNothing
  refine ⟨fun r s hidle hr => ?_, fun r red s hidle hlife hr => ?_, fun r q s hidle hlife hr hq => ?_,
    fun col w h rest s hidle hinbox hsize => ?_⟩
  · rw [exec_admitted hidle (mem_admittedIn_encodePlane _ r), meaning, encodePlane_of_not_panelSized hidle.1 hr]
  · rw [exec_admitted (i := .printImage r red) hidle (hlife ▸ List.mem_singleton_self _), meaning,
      printImage_of_first_not_panelSized hidle.1 hr, hlife]
  · rw [exec_admitted (i := .printImage r (some q)) hidle (hlife ▸ List.mem_singleton_self _), meaning,
      printImage_of_red_not_panelSized hidle.1 hr hq, hlife]
  · rw [step_moves hinbox (.inr nofun), runMove, encStart_of_wrong_size (s := setInbox rest s) hidle hsize]
    rfl

/-! ## Refusal (R157) -/

/-- A step that takes a move and refuses it leaves the rest of the queue and sets the mark. -/
theorem step_refuses {m : HostMove} {rest : List HostMove} {s : State} (hinbox : s.inbox = m :: rest) (hm : m ≠ .await)
    (hrefuses : runMove m (setInbox rest s) = .next (refuse (setInbox rest s))) :
    step s = .next { s with inbox := rest, refused := true } := by
  rw [step_moves hinbox (.inr hm), hrefuses]
  rfl

/-- Settles O36: what is not admitted, a reserved code, a sample to an idle ENC, and a move made meanwhile each end in `refuse`. -/
theorem refusalChangesNothing : Obligations.RefusalChangesNothing := by
  unfold Obligations.RefusalChangesNothing
  refine ⟨fun i s hnot => exec_refused hnot, fun op a rest s hinbox hop => ?_, fun col w h rest s hactive hinbox => ?_,
    fun px rest s hactive hinbox => ?_, fun m rest s hbusy hinbox hm => ?_⟩
  · exact step_refuses hinbox nofun (by rw [runMove, reservedCodesAreRejected.1 op a hop])
  · have hbusy : ¬ Idle (setInbox rest s) := fun hidle => Bool.noConfusion (hactive.symm.trans hidle.2)
    exact step_refuses hinbox nofun (busy_refuses hbusy (.inr (.inr ⟨col, w, h, rfl⟩)))
  · exact step_refuses hinbox nofun (by rw [runMove, encPixel_of_idle (s := setInbox rest s) _ px hactive])
  · have hawait : m ≠ .await := by rcases hm with ⟨c, rfl⟩ | ⟨col, bs, rfl⟩ | ⟨col, w, h, rfl⟩ <;> exact nofun
    exact step_refuses hinbox hawait (busy_refuses (s := setInbox rest s) hbusy hm)

end Sys2Proof.Machine
end

section
/-! PROOFS. A step of the machine is a sequence of SEQ's elementary steps and the result that is made of them; what holds of each of
these holds of every operation (R110, R115, R151, R155, R160, R170). -/
namespace Sys2Proof.Machine

/-! ## The elementary steps -/

/-- No event, no answer taken, no result, no error recorded. -/
structure Quiet (s t : State) : Prop where
  hist : t.hist = s.hist
  env : t.env = s.env
  returns : t.returns = s.returns
  err : t.seq.err = s.seq.err

theorem Quiet.refl (s : State) : Quiet s s := ⟨rfl, rfl, rfl, rfl⟩

theorem Quiet.trans {s t u : State} (h : Quiet s t) (h' : Quiet t u) : Quiet s u :=
  ⟨h'.hist.trans h.hist, h'.env.trans h.env, h'.returns.trans h.returns, h'.err.trans h.err⟩

/-- Polling as steps of the operation that polls: what is no error lets it go on. -/
def Poll.run : Poll → Run
  | .ready s => .ok s
  | .again s => .ok s
  | .raised e s => .raised e s

/-- From `s` SEQ can come to `r` by elementary steps: a line write, a transaction with its answer, an event that shows no error, a
step of INITIALIZE, a busy sample at hand or drawn, the refusal of a size. -/
inductive Ran : State → Run → Prop
  | quiet {s t : State} (h : Quiet s t) : Ran s (.ok t)
  | logs {e : Event} (he : e.raises = false) (s : State) : Ran s (.ok (emit e s))
  | lineWrite (l : OutLine) (lv : Level) (s : State) : Ran s (lineWrite l lv s)
  | written {bytes : List Byte} {n : Nat} {s : State} (h : s.env.spiAnswer bytes.length = .ok n) : Ran s (.ok (spiWrite bytes s))
  | failed {bytes : List Byte} {e : Nat} {s : State} (h : s.env.spiAnswer bytes.length = .err e) :
      Ran s (.raised (.transport e) (spiWrite bytes s))
  | exportLine (l : Line) (s : State) : Ran s (exportLine l s)
  | setDirection (l : Line) (d : Direction) (s : State) : Ran s (setDirection l d s)
  | configureSpi (c : Config) (s : State) : Ran s (configureSpi c s)
  | sampled {a : BusyAnswer} {rest : List BusyAnswer} {s : State} (h : s.env.busySamples = a :: rest) :
      Ran s (judge Config.hw a (setBusy rest s)).run
  | drawn {s : State} (h : s.env.busySamples = []) : Ran s (judge Config.hw s.env.busyAnswer (setEnv s.env.drawn s)).run
  | wrongSize (w h : Nat) (s : State) : Ran s (.raised (.sizeMismatch w h) s)
  | trans {s t : State} {r : Run} (h : Ran s (.ok t)) (h' : Ran t r) : Ran s r

theorem Ran.refl (s : State) : Ran s (.ok s) := .quiet (Quiet.refl s)

theorem Ran.andThen {s : State} {r : Run} {f : State → Run} (h : Ran s r) (hf : ∀ t, Ran t (f t)) : Ran s (r.andThen f) := by
  cases r with
  | ok t => exact h.trans (hf t)
  | raised e t => exact h

/-! ## The sequences of SEQ are made of them -/

theorem transaction_ran (lv : Level) (bytes : List Byte) {counted : Nat → State → State} (hcounted : ∀ n t, Ran t (.ok (counted n t)))
    (s : State) : Ran s (transaction lv bytes counted s) := by
  refine (Ran.lineWrite .dc lv s).andThen fun t => ?_
  split
  next n hn => exact (Ran.written hn).trans (hcounted n _)
  next e he => exact .failed he

theorem sendByte_ran (lv : Level) (b : Byte) (s : State) : Ran s (sendByte lv b s) :=
  transaction_ran lv [b] (fun _ t => Ran.refl t) s

theorem logPartial_ran (requested written : Nat) (s : State) : Ran s (.ok (logPartial requested written s)) := by
  unfold logPartial
  split
  · exact .logs rfl s
  · exact Ran.refl s

theorem sendData_ran (bytes : List Byte) (s : State) : Ran s (sendData Config.hw bytes s) :=
  transaction_ran .high bytes (logPartial_ran bytes.length) s

theorem sendParams_ran (ps : List Byte) (s : State) : Ran s (sendParams Config.hw ps s) := by
  induction ps generalizing s with
  | nil => exact Ran.refl s
  | cons p ps ih => exact (sendByte_ran _ p s).andThen ih

theorem sendCommand_ran (code : Byte) (ps : List Byte) (s : State) : Ran s (sendCommand Config.hw code ps s) :=
  (sendByte_ran _ code s).andThen (sendParams_ran ps)

theorem sendRows_ran (rows : List (List Byte)) (s : State) : Ran s (sendRows Config.hw rows s) := by
  induction rows generalizing s with
  | nil => exact Ran.refl s
  | cons r rows ih => exact (sendData_ran r s).andThen ih

theorem sendPlane_ran (code : Byte) (rows : List (List Byte)) (s : State) : Ran s (sendPlane Config.hw code rows s) :=
  (sendByte_ran _ code s).andThen (sendRows_ran rows)

theorem sendFrame_ran (black red : List (List Byte)) (s : State) : Ran s (sendFrame Config.hw black red s) :=
  ((sendPlane_ran _ black s).andThen (sendPlane_ran _ red)).andThen (sendByte_ran _ _)

theorem holdRst_ran (lv : Level) (s : State) : Ran s (holdRst Config.hw lv s) :=
  (Ran.lineWrite .rst lv s).andThen fun t => .logs rfl t

theorem resetPulse_ran (s : State) : Ran s (resetPulse Config.hw s) :=
  ((holdRst_ran .high s).andThen (holdRst_ran .low)).andThen (holdRst_ran .high)

theorem acquireAll_ran (s : State) : Ran s (acquireAll Config.hw s) :=
  ((((((Ran.exportLine .busy s).andThen (.exportLine .rst)).andThen (.exportLine .dc)).andThen (.setDirection .busy .input)).andThen
    (.setDirection .rst .output)).andThen (.setDirection .dc .output)).andThen (.configureSpi Config.hw)

theorem judge_env (c : Config) (a : BusyAnswer) (s : State) : (judge c a s).run.final.env = s.env := by
  unfold judge
  split
  · rfl
  split
  · rfl
  split <;> rfl

/-- Polling takes the samples at hand one by one (R115). -/
theorem pollAll_ran {l : List BusyAnswer} {s : State} (hl : s.env.busySamples = l) : Ran s (pollAll Config.hw l s).run := by
  induction l generalizing s with
  | nil => exact Ran.refl s
  | cons a rest ih =>
    have hjudge := Ran.sampled hl
    have henv := judge_env Config.hw a (setBusy rest s)
    simp only [pollAll]
    cases hj : judge Config.hw a (setBusy rest s) with
    | again t =>
      rw [hj] at hjudge henv
      exact hjudge.trans (ih (congrArg Env.busySamples henv))
    | ready t => rw [hj] at hjudge; exact hjudge
    | raised e t => rw [hj] at hjudge; exact hjudge

theorem encodeInto_quiet (c : Config) (src dst : Colour) (s : State) : Quiet s (encodeInto c src dst s) :=
  ⟨by simp, by simp, by simp, by simp⟩

theorem discardPlane_quiet (col : Colour) (s : State) : Quiet s (discardPlane col s) := ⟨by simp, by simp, by simp, by simp⟩

theorem discardFor_quiet (op : Waiting) (s : State) : Quiet s (discardFor op s) := ⟨by simp, by simp, by simp, by simp⟩

theorem setLife_quiet (l : Life) (s : State) : Quiet s (setLife l s) := ⟨rfl, rfl, rfl, rfl⟩

theorem refuse_quiet (s : State) : Quiet s (refuse s) := ⟨rfl, rfl, rfl, rfl⟩

theorem planesEncoded_quiet (r : RasterArg) (red : Option RasterArg) (s : State) : Quiet s (planesEncoded r red s) := by
  refine (encodeInto_quiet Config.hw r.space .black s).trans ?_
  cases red with
  | none => exact Quiet.refl _
  | some q => exact encodeInto_quiet Config.hw q.space .red _

/-! ## What an operation makes of its steps -/

/-- The steps taken, and their result: none yet, a success given back, or the error they raised, recorded and given back. -/
inductive Operates (s t : State) : Prop
  | silent (h : Ran s (.ok t))
  | returned {u : State} {r : OpResult} (h : Ran s (.ok u)) (hr : r.isOk = true) (ht : Quiet (giveBack r u) t)
  | aborted {u : State} {e : Error} (h : Ran s (.raised e u)) (ht : Quiet (giveBack (.error e) (noteError e u)) t)
      (hnone : t.pending = none)

theorem Quiet.operates {s t : State} (h : Quiet s t) : Operates s t := .silent (.quiet h)

theorem Operates.after {s t u : State} (h : Ran s (.ok u)) (h' : Operates u t) : Operates s t := by
  cases h' with
  | silent h' => exact .silent (h.trans h')
  | returned h' hr ht => exact .returned (h.trans h') hr ht
  | aborted h' ht hnone => exact .aborted (h.trans h') ht hnone

theorem Operates.discardPlane {s t : State} (h : Operates s t) (col : Colour) : Operates s (discardPlane col t) := by
  have hq := discardPlane_quiet col t
  cases h with
  | silent h => exact .silent (h.trans (.quiet hq))
  | returned h hr ht => exact .returned h hr (ht.trans hq)
  | aborted h ht hnone => exact .aborted h (ht.trans hq) ((discardPlane_pending col t).trans hnone)

theorem giveBack_operates {s u : State} {r : OpResult} (h : Ran s (.ok u)) (hr : r.isOk = true) : Operates s (giveBack r u) :=
  .returned h hr (Quiet.refl _)

/-- Whatever is dead when the operation ends (R59). -/
theorem abortTo_operates {s u v : State} {e : Error} (h : Ran s (.raised e u)) (hv : Quiet u v) (l : Life) :
    Operates s (abortTo l e v) :=
  .aborted h ⟨hv.hist, hv.env, by simp [abortTo, hv.returns], by simp [abortTo, hv.err]⟩ rfl

theorem abort_operates {s u v : State} {e : Error} (h : Ran s (.raised e u)) (hv : Quiet u v) (start : Nat) :
    Operates s (abort start e v) := abortTo_operates h hv _

theorem validate_operates {c : Config} {w h : Nat} {e : Error} (he : validate c w h = some e) (start : Nat) (s : State) :
    Operates s (abort start e s) := by
  rw [validate] at he
  split at he <;> cases he
  exact abort_operates (.wrongSize w h s) (Quiet.refl s) start

theorem settle_operates {s : State} {r : Run} {f : State → State} (h : Ran s r) (hf : ∀ u, Quiet u (f u)) (start : Nat) :
    Operates s (settle start f r) := by
  cases r with
  | ok u => exact giveBack_operates (h.trans (.quiet (hf u))) rfl
  | raised e u => exact abort_operates h (Quiet.refl u) start

theorem primitive_operates {s : State} {f : State → Run} (h : Ran s (f s)) : Operates s (primitive f s) :=
  settle_operates h Quiet.refl _

theorem conclude_operates (p : Pending) (s : State) : Operates s (conclude Config.hw p s) := by
  obtain ⟨op, start⟩ := p
  cases op
  case firstSequence => exact settle_operates (sendCommand_ran _ _ s) (setLife_quiet _) start
  case close => exact settle_operates (sendCommand_ran _ _ s) (setLife_quiet _) start
  case printImage => exact giveBack_operates (.quiet (discardFor_quiet .printImage s)) rfl
  all_goals exact giveBack_operates (Ran.refl s) rfl

theorem settlePoll_operates (p : Pending) {s : State} {r : Poll} (h : Ran s r.run) : Operates s (settlePoll Config.hw p r) := by
  cases r with
  | ready t => exact (conclude_operates p t).after h
  | again t => exact .silent (h.trans (.quiet ⟨rfl, rfl, rfl, rfl⟩))
  | raised e t => exact abort_operates h (discardFor_quiet p.op t) p.start

theorem enterWait_operates (p : Pending) (s : State) : Operates s (enterWait Config.hw p s) := settlePoll_operates p (pollAll_ran rfl)

theorem resumeWait_operates (p : Pending) (s : State) : Operates s (resumeWait Config.hw p s) := by
  unfold resumeWait
  split
  next hnone => exact settlePoll_operates p (.drawn hnone)
  · exact enterWait_operates p s

theorem thenWait_operates (p : Pending) {s : State} {r : Run} (h : Ran s r) : Operates s (thenWait Config.hw p r) := by
  cases r with
  | ok t => exact (enterWait_operates p t).after h
  | raised e t => exact abort_operates h (discardFor_quiet p.op t) p.start

theorem initialiseLines_operates (s : State) : Operates s (initialiseLines Config.hw s) := by
  have h := acquireAll_ran s
  unfold initialiseLines
  split
  next t ht => rw [ht] at h; exact giveBack_operates (h.trans (.quiet (setLife_quiet _ t))) rfl
  next e t ht => rw [ht] at h; exact abortTo_operates h (Quiet.refl t) _

theorem sendSource_operates (code : Byte) (dst : Colour) (p : PlaneSource) (s : State) :
    Operates s (sendSource Config.hw code dst p s) := by
  cases p with
  | white => exact primitive_operates (sendPlane_ran code _ s)
  | stripe n => exact primitive_operates (sendPlane_ran code _ s)
  | encoded r =>
    simp only [sendSource, sendEncoded]
    split
    next e he => exact validate_operates he _ s
    · have hencoded := Ran.quiet (encodeInto_quiet Config.hw r.space dst s)
      exact (settle_operates (hencoded.trans (sendPlane_ran code _ _)) Quiet.refl _).discardPlane dst

theorem printImage_operates (r : RasterArg) (red : Option RasterArg) (s : State) : Operates s (printImage Config.hw r red s) := by
  unfold printImage
  split
  next e he => exact validate_operates he _ s
  split
  next e he =>
    cases red with
    | none => cases he
    | some q => exact validate_operates (w := q.w) (h := q.h) he _ s
  · exact thenWait_operates _ ((Ran.quiet (planesEncoded_quiet r red s)).trans (sendFrame_ran _ _ _))

theorem encodePlane_operates (r : RasterArg) (s : State) : Operates s (encodePlane Config.hw r s) := by
  unfold encodePlane
  split
  next e he => exact validate_operates he _ s
  · exact giveBack_operates (.quiet ((encodeInto_quiet Config.hw r.space r.space s).trans (discardPlane_quiet r.space _))) rfl

theorem meaning_operates (i : Instr) (s : State) : Operates s (meaning i s) := by
  cases i
  case panelSetting => exact primitive_operates (sendCommand_ran _ _ s)
  case powerOff => exact thenWait_operates ⟨.powerOff, _⟩ (sendByte_ran _ _ s)
  case powerOn => exact thenWait_operates ⟨.powerOn, _⟩ (sendByte_ran _ _ s)
  case boosterSoftStart => exact primitive_operates (sendCommand_ran _ _ s)
  case deepSleep => exact primitive_operates (sendCommand_ran _ _ s)
  case dataBlack p => exact sendSource_operates _ _ p s
  case displayRefresh => exact thenWait_operates ⟨.displayRefresh, _⟩ (sendByte_ran _ _ s)
  case dataRed p => exact sendSource_operates _ _ p s
  case initialise => exact initialiseLines_operates s
  case reset => exact settle_operates (resetPulse_ran s) (setLife_quiet _) _
  case sendCommandByte b => exact primitive_operates (sendByte_ran _ b s)
  case sendDataByte b => exact primitive_operates (sendByte_ran _ b s)
  case sendData bs => exact primitive_operates (sendData_ran bs s)
  case waitBusy => exact enterWait_operates ⟨.waitBusy, _⟩ s
  case firstSequence => exact thenWait_operates ⟨.firstSequence, _⟩ ((sendCommand_ran _ _ s).andThen (sendByte_ran _ _))
  case clearDisplay => exact thenWait_operates ⟨.clearDisplay, _⟩ (sendFrame_ran _ _ s)
  case printTricolor => exact thenWait_operates ⟨.printTricolor, _⟩ (sendFrame_ran _ _ s)
  case printImage r red => exact printImage_operates r red s
  case close => exact thenWait_operates ⟨.close, _⟩ (sendByte_ran _ _ s)
  case encodePlane r => exact encodePlane_operates r s

theorem exec_operates {i : Instr} {s t : State} (h : exec i s = .next t) : Operates s t := by
  rw [exec_eq_operation, operation] at h
  split at h <;> cases h
  · exact meaning_operates i s
  · exact (refuse_quiet s).operates

/-! ## What a move of HOST's makes -/

theorem encStart_operates (col : Colour) (w h : Nat) (s : State) : Operates s (encStart Config.hw col w h s) := by
  unfold encStart
  split
  · exact (refuse_quiet s).operates
  split
  next e he => exact validate_operates he _ s
  · exact .silent (.quiet ⟨rfl, rfl, rfl, rfl⟩)

theorem supplyRaster_quiet (col : Colour) (bs : List Byte) (s : State) : Quiet s (supplyRaster col bs s) := by
  unfold supplyRaster
  split
  · exact refuse_quiet s
  · exact ⟨by simp, by simp, by simp, by simp⟩

/-- ENC's stream takes no answer of the platform. -/
theorem encPixel_env (c : Config) (px : Byte) (s : State) : (encPixel c px s).env = s.env := by
  have hadvance (t : State) : (encAdvance c t).env = t.env := by
    unfold encAdvance
    split
    · simp [encEmit]
    split
    · simp [encEmit]
    · simp [encFinish, encEmit]
  unfold encPixel
  split
  · split
    · rfl
    · exact hadvance _
  · rfl

theorem encPixel_quiet (px : Byte) (s : State) : Quiet s (encPixel Config.hw px s) := by
  have hwork := encPixel_work Config.hw px s
  exact ⟨hwork.hist, encPixel_env _ px s, hwork.returns, by rw [hwork.seq]⟩

theorem runMove_operates {m : HostMove} {s t : State} (h : runMove m s = .next t) : Operates s t := by
  cases m with
  | call c =>
    rw [runMove] at h
    split at h
    · exact exec_operates h
    · cases h; exact (refuse_quiet s).operates
  | await => cases h; exact (Quiet.refl s).operates
  | supply col bs => cases h; exact (supplyRaster_quiet col bs s).operates
  | start col w hh => cases h; exact encStart_operates col w hh s
  | pixIn px => cases h; exact (encPixel_quiet px s).operates

/-- By the three things a step can be, a further poll, a move of HOST, or nothing. -/
theorem step_operates {s t : State} (h : step s = .next t) : Operates s t := by
  rcases step_cases s with ⟨p, -, -, hstep⟩ | ⟨m, rest, -, -, hstep⟩ | ⟨-, -, hstep⟩ <;> rw [hstep] at h
  · cases h; exact resumeWait_operates p s
  · exact (runMove_operates h).after (.quiet (t := setInbox rest s) ⟨rfl, rfl, rfl, rfl⟩)
  · cases h; exact (Quiet.refl s).operates

end Sys2Proof.Machine
end

section
/-! PROOFS. Errors: the sticky record, the abort, and the platform that reports none (R151, R155, R160, R170). -/
namespace Sys2Proof.Machine

/-! ## The sticky record (R170) -/

/-- An elementary step gives no result back and records no error: that is left to the end of the operation. -/
theorem Ran.nothing_returned {s : State} {r : Run} (h : Ran s r) :
    r.final.returns = s.returns ∧ r.final.seq.err = s.seq.err := by
  have hjudge (a : BusyAnswer) (t : State) :
      (judge Config.hw a t).run.final.returns = t.returns ∧ (judge Config.hw a t).run.final.seq.err = t.seq.err := by
    have hwire := judge_wire Config.hw a t
    cases hj : judge Config.hw a t <;> rw [hj] at hwire <;> exact ⟨hwire.returns, hwire.err⟩
  induction h with
  | quiet h => exact ⟨h.returns, h.err⟩
  | logs he s => exact ⟨rfl, rfl⟩
  | lineWrite l lv s =>
    unfold Machine.lineWrite
    split
    · exact ⟨by simp [Run.final], by simp [Run.final]⟩
    · exact ⟨rfl, rfl⟩
  | written h => exact ⟨rfl, rfl⟩
  | failed h => exact ⟨rfl, rfl⟩
  | exportLine l s => have hwire := exportLine_wire l s; exact ⟨hwire.returns, hwire.err⟩
  | setDirection l d s => have hwire := setDirection_wire l d s; exact ⟨hwire.returns, hwire.err⟩
  | configureSpi c s => have hwire := configureSpi_wire c s; exact ⟨hwire.returns, hwire.err⟩
  | sampled h => exact hjudge _ _
  | drawn h => exact hjudge _ _
  | wrongSize w h s => exact ⟨rfl, rfl⟩
  | trans h h' ih ih' => exact ⟨ih'.1.trans ih.1, ih'.2.trans ih.2⟩

/-- What is recorded stays, else the first error among the results given back is recorded. -/
theorem Operates.err {s t : State} (h : Operates s t) :
    ∃ l, t.returns = s.returns ++ l ∧ t.seq.err = s.seq.err.or (firstErrorKind l) := by
  cases h with
  | silent h =>
    obtain ⟨hreturns, herr⟩ := h.nothing_returned
    exact ⟨[], hreturns.trans (List.append_nil _).symm, herr.trans (Option.or_none ..).symm⟩
  | @returned u r h hr ht =>
    obtain ⟨hreturns, herr⟩ := h.nothing_returned
    have hnone : firstErrorKind [r] = none := firstErrorKind_append_isOk [] hr
    exact ⟨[r], by rw [ht.returns, giveBack_returns, ← hreturns]; rfl,
      by rw [hnone, Option.or_none, ht.err, giveBack_seq, ← herr]; rfl⟩
  | @aborted u e h ht hnone =>
    obtain ⟨hreturns, herr⟩ := h.nothing_returned
    refine ⟨[.error e], by rw [ht.returns, giveBack_returns, noteError_returns, ← hreturns]; rfl, ?_⟩
    rw [ht.err, giveBack_seq, noteError_seq_err, ← herr, Run.final]
    cases u.seq.err <;> rfl

/-- Settles O40: the record and the results of a step come from one end of an operation (`Operates.err`). -/
theorem errorRecordIsSticky : Obligations.ErrorRecordIsSticky := by
  unfold Obligations.ErrorRecordIsSticky
  intro s t h
  obtain ⟨l, hreturns, herr⟩ := (step_operates h).err
  rw [herr, hreturns, List.drop_left]
  exact ⟨fun k hk => by rw [hk, Option.some_or], fun hnone => by rw [hnone, Option.none_or]⟩

/-! ## The event of an error is the last (R155, R160) -/

/-- No event among these shows a raised error. -/
def Calm (l : List Event) : Prop := ∀ e ∈ l, e.raises = false

theorem Calm.nil : Calm [] := fun _ he => nomatch he

theorem Calm.singleton {e : Event} (he : e.raises = false) : Calm [e] := by
  intro e' he'
  rw [List.mem_singleton.1 he', he]

theorem Calm.append {l l' : List Event} (h : Calm l) (h' : Calm l') : Calm (l ++ l') := fun e he =>
  (List.mem_append.1 he).elim (h e) (h' e)

/-- Steps that were all done have shown no error; steps that raised one have shown it, if at all, in their last event. -/
def Run.CalmSince (s : State) : Run → Prop
  | .ok t => ∃ l, t.hist = s.hist ++ l ∧ Calm l
  | .raised _ t => ∃ l last, t.hist = s.hist ++ (l ++ last) ∧ Calm l ∧ last.length ≤ 1

/-- One event that shows no error, whether or not the call it stands for succeeded. -/
theorem Run.calmSince_of_event {s : State} {r : Run} {e : Event} (h : r.final.hist = s.hist ++ [e]) (he : e.raises = false) :
    r.CalmSince s := by
  cases r with
  | ok t => exact ⟨[e], h, .singleton he⟩
  | raised x t => exact ⟨[e], [], h, .singleton he, Nat.zero_le _⟩

theorem judge_calmSince (a : BusyAnswer) (s : State) : (judge Config.hw a s).run.CalmSince s := by
  cases a with
  | err e => exact ⟨[], [], (List.append_nil _).symm, Calm.nil, Nat.zero_le _⟩
  | level v =>
    simp only [judge]
    split
    next hready => exact ⟨[.busy v], rfl, .singleton (by rw [hready]; rfl)⟩
    split
    next hbusy =>
      exact ⟨[.busy v] ++ [.sleep Config.hw.pollMs], by simp, .append (.singleton (by rw [hbusy]; rfl)) (.singleton rfl)⟩
    · exact ⟨[], [.busy v], rfl, Calm.nil, le_rfl⟩

theorem Ran.calmSince {s : State} {r : Run} (h : Ran s r) : r.CalmSince s := by
  induction h with
  | quiet h => exact ⟨[], h.hist.trans (List.append_nil _).symm, Calm.nil⟩
  | logs he s => exact Run.calmSince_of_event rfl he
  | lineWrite l lv s =>
    refine Run.calmSince_of_event (e := lineEvent l lv) ?_ (by cases l <;> rfl)
    unfold Machine.lineWrite
    split <;> simp [Run.final]
  | written h => exact ⟨[.spi _ (.ok _)], by rw [spiWrite, h]; rfl, .singleton rfl⟩
  | failed h => exact ⟨[], [.spi _ (.err _)], by rw [spiWrite, h]; rfl, Calm.nil, le_rfl⟩
  | exportLine l s =>
    refine Run.calmSince_of_event (e := .exported l) ?_ rfl
    simp only [Machine.exportLine]
    split <;> rfl
  | setDirection l d s =>
    refine Run.calmSince_of_event (e := .direction l d) ?_ rfl
    simp only [Machine.setDirection]
    split <;> rfl
  | configureSpi c s =>
    refine Run.calmSince_of_event (e := .spiConfig (spiFormat c)) ?_ rfl
    simp only [Machine.configureSpi]
    split <;> rfl
  | sampled h => exact judge_calmSince _ _
  | drawn h => exact judge_calmSince _ _
  | wrongSize w h s => exact ⟨[], [], (List.append_nil _).symm, Calm.nil, Nat.zero_le _⟩
  | @trans s t r h h' ih ih' =>
    obtain ⟨l, hl, hcalm⟩ := ih
    cases r with
    | ok u =>
      obtain ⟨l', hl', hcalm'⟩ := ih'
      exact ⟨l ++ l', by rw [hl', hl, List.append_assoc], hcalm.append hcalm'⟩
    | raised e u =>
      obtain ⟨l', last, hl', hcalm', hlast⟩ := ih'
      exact ⟨l ++ l', last, by rw [hl', hl, List.append_assoc, List.append_assoc], hcalm.append hcalm', hlast⟩

/-- An operation shows no error, or it shows one in its last event and ends with an error given back. -/
theorem Operates.calm_or_aborted {s t : State} (h : Operates s t) :
    (∃ l, t.hist = s.hist ++ l ∧ Calm l) ∨
    (∃ l last, t.hist = s.hist ++ (l ++ last) ∧ Calm l ∧ last.length ≤ 1 ∧ t.pending = none ∧
      ∃ x, t.returns = s.returns ++ [.error x]) := by
  cases h with
  | silent h => exact .inl h.calmSince
  | returned h hr ht =>
    obtain ⟨l, hl, hcalm⟩ := h.calmSince
    exact .inl ⟨l, ht.hist.trans hl, hcalm⟩
  | @aborted u e h ht hnone =>
    obtain ⟨l, last, hl, hcalm, hlast⟩ := h.calmSince
    have hreturns : u.returns = s.returns := h.nothing_returned.1
    exact .inr ⟨l, last, ht.hist.trans hl, hcalm, hlast, hnone, e,
      by rw [ht.returns, giveBack_returns, noteError_returns, hreturns]⟩

/-- An event that shows an error does not stand among the calm ones, so it is the one that may follow them. -/
theorem eq_nil_of_raises {l l' calm last : List Event} {e : Event} (h : l ++ e :: l' = calm ++ last) (hcalm : Calm calm)
    (hlast : last.length ≤ 1) (he : e.raises = true) : l' = [] := by
  have hnot : e ∉ calm := fun hmem => by rw [hcalm e hmem] at he; cases he
  rcases List.append_eq_append_iff.1 h with ⟨m, rfl, hm⟩ | ⟨m, -, rfl⟩
  · cases m with
    | nil =>
      rw [List.nil_append] at hm
      rw [← hm, List.length_cons] at hlast
      exact List.length_eq_zero_iff.1 (by omega)
    | cons a m =>
      obtain ⟨rfl, -⟩ := List.cons.inj hm
      exact absurd (List.mem_append_right l (List.mem_cons_self ..)) hnot
  · rw [List.length_append, List.length_cons] at hlast
    exact List.length_eq_zero_iff.1 (by omega)

/-- Settles O41: an operation that shows an error is one that aborted, and aborted with that event (`Operates.calm_or_aborted`). -/
theorem raisingEventIsTheLast : Obligations.RaisingEventIsTheLast := by
  unfold Obligations.RaisingEventIsTheLast
  intro s t l l' e hnext hhist he
  have hop : Operates s t := hnext.elim (fun ⟨_, h⟩ => exec_operates h) step_operates
  rw [List.append_assoc] at hhist
  rcases hop.calm_or_aborted with ⟨calm, ht, hcalm⟩ | ⟨calm, last, ht, hcalm, hlast, hnone, hreturns⟩
  · have heq := List.append_cancel_left (hhist.symm.trans ht)
    have hfalse := hcalm e (heq ▸ List.mem_append_right l (List.mem_cons_self ..))
    rw [he] at hfalse; cases hfalse
  · exact ⟨eq_nil_of_raises (List.append_cancel_left (hhist.symm.trans ht)) hcalm hlast he, hnone, hreturns⟩

/-! ## The ideal platform (R151) -/

/-- Whether the platform is ideal is a fact about the environment. -/
theorem IdealPlatform.of_env {s t : State} (h : IdealPlatform s) (ht : t.env = s.env) : IdealPlatform t := by
  rw [IdealPlatform, IdealCalls, ht]; exact h

/-- The samples still at hand are no errors either. -/
theorem IdealPlatform.setBusy {a : BusyAnswer} {rest : List BusyAnswer} {s : State} (h : IdealPlatform s)
    (hs : s.env.busySamples = a :: rest) : IdealPlatform (setBusy rest s) :=
  ⟨h.1, fun e he => h.2 e (hs ▸ List.mem_cons_of_mem a he)⟩

theorem IdealCalls.line {s : State} (h : IdealCalls s) : s.env.lineAnswer = .ok ∧ s.env.afterLine = s.env := by
  obtain ⟨hideal, hlines, -⟩ := h
  simp [Env.lineAnswer, Env.afterLine, hlines, hideal]

theorem IdealCalls.spi {s : State} (h : IdealCalls s) (len : Nat) : s.env.spiAnswer len = .ok len ∧ s.env.afterSpi = s.env := by
  obtain ⟨hideal, -, hspi, -⟩ := h
  simp [Env.spiAnswer, Env.afterSpi, hspi, hideal]

theorem IdealCalls.acquire {s : State} (h : IdealCalls s) : s.env.acquires = true ∧ s.env.afterAcquire = s.env := by
  obtain ⟨hideal, -, -, hacquires, -⟩ := h
  simp [Env.acquires, Env.afterAcquire, hacquires, hideal]

theorem IdealCalls.direction {s : State} (h : IdealCalls s) : s.env.directionAnswer = .ok ∧ s.env.afterDirection = s.env := by
  obtain ⟨hideal, -, -, -, hdirections⟩ := h
  simp [Env.directionAnswer, Env.afterDirection, hdirections, hideal]

/-- The platform is still ideal, no step raised Transport, and no transaction was answered Err. -/
structure Run.Ideal (s : State) (r : Run) : Prop where
  platform : IdealPlatform r.final
  error : ∀ e u, r ≠ .raised (.transport e) u
  hist : ∃ l, r.final.hist = s.hist ++ l ∧ ∀ bytes e, Event.spi bytes (.err e) ∉ l

/-- A step that the ideal platform lets succeed, and its events. -/
theorem Run.Ideal.ok {s t : State} {l : List Event} (hs : IdealPlatform s) (henv : t.env = s.env) (hhist : t.hist = s.hist ++ l)
    (hl : ∀ bytes e, Event.spi bytes (.err e) ∉ l) : (Run.ok t).Ideal s :=
  ⟨hs.of_env henv, fun _ _ => nofun, l, hhist, hl⟩

theorem judge_ideal {s : State} (hs : IdealPlatform s) {a : BusyAnswer} (ha : ∀ e, a ≠ .err e) :
    (judge Config.hw a s).run.Ideal s := by
  cases a with
  | err e => exact absurd rfl (ha e)
  | level v =>
    simp only [judge]
    split
    · exact .ok (l := [.busy v]) hs rfl rfl (by simp)
    split
    · exact .ok (l := [.busy v, .sleep _]) hs rfl (List.append_assoc ..) (by simp)
    · exact ⟨hs.of_env rfl, by simp [Poll.run], [.busy v], rfl, by simp⟩

theorem Ran.ideal {s : State} {r : Run} (h : Ran s r) (hs : IdealPlatform s) : r.Ideal s := by
  induction h with
  | quiet h => exact .ok hs h.env (h.hist.trans (List.append_nil _).symm) (by simp)
  | logs he s =>
    refine .ok hs rfl rfl fun bytes e hmem => ?_
    rw [← List.mem_singleton.1 hmem] at he; cases he
  | lineWrite l lv s =>
    obtain ⟨hanswer, hafter⟩ := hs.1.line
    simp only [Machine.lineWrite, hanswer]
    exact .ok (l := [lineEvent l lv]) hs (by simp [hafter]) (by simp) (by cases l <;> simp [lineEvent])
  | @written bytes n s h =>
    exact .ok (l := [.spi bytes (.ok n)]) hs (hs.1.spi bytes.length).2 (by rw [spiWrite, h]; rfl) (by simp)
  | failed h =>
    rw [(hs.1.spi _).1] at h; cases h
  | exportLine l s =>
    obtain ⟨hanswer, hafter⟩ := hs.1.acquire
    simp only [Machine.exportLine, hanswer, if_true]
    exact .ok (l := [.exported l]) hs hafter rfl (by simp)
  | setDirection l d s =>
    obtain ⟨hanswer, hafter⟩ := hs.1.direction
    simp only [Machine.setDirection, hanswer]
    exact .ok (l := [.direction l d]) hs hafter rfl (by simp)
  | configureSpi c s =>
    obtain ⟨hanswer, hafter⟩ := hs.1.acquire
    simp only [Machine.configureSpi, hanswer, if_true]
    exact .ok (l := [.spiConfig (spiFormat c)]) hs hafter rfl (by simp)
  | @sampled a rest s h =>
    have ha (e : Nat) : a ≠ .err e := fun he => hs.2 e (by rw [h, he]; exact List.mem_cons_self ..)
    have hrest := judge_ideal (hs.setBusy h) ha
    exact ⟨hrest.platform, hrest.error, hrest.hist⟩
  | @drawn s h =>
    have hdraw (e : Nat) : s.env.busyAnswer ≠ .err e := by simp [Env.busyAnswer, hs.1.1]
    have hrest := judge_ideal (s := setEnv s.env.drawn s) hs hdraw
    exact ⟨hrest.platform, hrest.error, hrest.hist⟩
  | wrongSize w h s => exact ⟨hs, by simp, [], (List.append_nil _).symm, by simp⟩
  | trans h h' ih ih' =>
    obtain ⟨ht, -, l, hl, hok⟩ := ih hs
    obtain ⟨hr, herror, l', hl', hok'⟩ := ih' ht
    refine ⟨hr, herror, l ++ l', by rw [hl', ← List.append_assoc, ← hl]; rfl, fun bytes e hmem => ?_⟩
    exact (List.mem_append.1 hmem).elim (hok bytes e) (hok' bytes e)

/-- Settles O59: the elementary steps keep the platform ideal and raise no Transport (`Ran.ideal`), and the result is theirs. -/
theorem idealPlatformNeverRaisesTransport : Obligations.IdealPlatformNeverRaisesTransport := by
  unfold Obligations.IdealPlatformNeverRaisesTransport
  intro s t hs hstep
  cases step_operates hstep with
  | silent h =>
    obtain ⟨ht, -, l, hl, hok⟩ := h.ideal hs
    exact ⟨ht, [], l, h.nothing_returned.1.trans (List.append_nil _).symm, hl, by simp, hok⟩
  | @returned u r h hr ht =>
    obtain ⟨hu, -, l, hl, hok⟩ := h.ideal hs
    refine ⟨hu.of_env ht.env, [r], l, ?_, ht.hist.trans hl, fun e hmem => ?_, hok⟩
    · rw [ht.returns, giveBack_returns]; exact congrArg (· ++ [r]) h.nothing_returned.1
    · rw [← List.mem_singleton.1 hmem] at hr; cases hr
  | @aborted u x h ht hnone =>
    obtain ⟨hu, herror, l, hl, hok⟩ := h.ideal hs
    refine ⟨hu.of_env ht.env, [.error x], l, ?_, ht.hist.trans hl, fun e hmem => ?_, hok⟩
    · rw [ht.returns, giveBack_returns]; exact congrArg (· ++ [.error x]) h.nothing_returned.1
    · obtain rfl : Error.transport e = x := by simpa using hmem
      exact herror e u rfl

end Sys2Proof.Machine
end

section
/-! PROOFS. Short writes: on a platform that fails no call, whatever counts it answers, a sequence sends all its bytes and returns
Ok (R152). -/
namespace Sys2Proof.Machine

theorem spiCount_append (l l' : List Event) : spiCount (l ++ l') = spiCount l + spiCount l' := by simp [spiCount]

theorem bytesSent_append (l l' : List Event) : bytesSent (l ++ l') = bytesSent l ++ bytesSent l' := by simp [bytesSent]

theorem spiCount_waitEvents (k : Nat) : spiCount (waitEvents k) = 0 :=
  congrArg (fun n => n.2.1) (sizes_waitEvents (b := k + 1) (Nat.le_add_left 1 k))

theorem bytesSent_waitEvents (k : Nat) : bytesSent (waitEvents k) = [] :=
  List.length_eq_zero_iff.1 (congrArg (fun n => n.2.2) (sizes_waitEvents (b := k + 1) (Nat.le_add_left 1 k)))

/-! ## The platform -/

/-- No line write and no transaction fails, a transaction may be short (R110), and PANEL gives these busy samples next. -/
structure NeverFails (samples : List BusyAnswer) (s : State) : Prop where
  ideal : s.env.ideal = true
  lines : s.env.lineAnswers = []
  spi : ∀ a ∈ s.env.spiAnswers, ∃ n, a = .ok n
  busy : s.env.busySamples = samples

/-- From `s` SEQ has come to `t` with these bytes requested in `n` transactions, DC left at `lv`, and PANEL's samples still to come. -/
structure Delivered (samples : List BusyAnswer) (lv : Level) (n : Nat) (bytes : List Byte) (s t : State) : Prop where
  seq : t.seq = { s.seq with dc := .ofLevel lv }
  returns : t.returns = s.returns
  platform : NeverFails samples t
  hist : ∃ l, t.hist = s.hist ++ l ∧ spiCount l = n ∧ bytesSent l = bytes

/-- A sequence of steps is done to its end, with these bytes. -/
def Delivers (samples : List BusyAnswer) (lv : Level) (n : Nat) (bytes : List Byte) (s : State) (r : Run) : Prop :=
  ∃ t, r = .ok t ∧ Delivered samples lv n bytes s t

section
variable {samples rest : List BusyAnswer} {lv lv' : Level} {n n' : Nat} {bytes bytes' : List Byte} {s t u : State}

theorem Delivered.trans {samples' : List BusyAnswer} (h : Delivered samples lv n bytes s t) (h' : Delivered samples' lv' n' bytes' t u) :
    Delivered samples' lv' (n + n') (bytes ++ bytes') s u := by
  obtain ⟨l, hl, hn, hb⟩ := h.hist
  obtain ⟨l', hl', hn', hb'⟩ := h'.hist
  exact ⟨by rw [h'.seq, h.seq], h'.returns.trans h.returns, h'.platform, l ++ l', by rw [hl', hl, List.append_assoc],
    by rw [spiCount_append, hn, hn'], by rw [bytesSent_append, hb, hb']⟩

theorem Delivers.andThen {r : Run} {f : State → Run} (h : Delivers samples lv n bytes s r)
    (hf : ∀ t, NeverFails samples t → Delivers samples lv' n' bytes' t (f t)) :
    Delivers samples lv' (n + n') (bytes ++ bytes') s (r.andThen f) := by
  obtain ⟨t, rfl, ht⟩ := h
  obtain ⟨u, hu, hdelivered⟩ := hf t ht.platform
  exact ⟨u, hu, ht.trans hdelivered⟩

/-! ## One transaction -/

/-- The answer to a transaction is some count, and no later one fails. -/
theorem NeverFails.spiAnswer (h : NeverFails samples s) (len : Nat) :
    (∃ n, s.env.spiAnswer len = .ok n) ∧ NeverFails samples (setEnv s.env.afterSpi s) := by
  cases hlist : s.env.spiAnswers with
  | nil =>
    simp only [Env.spiAnswer, Env.afterSpi, hlist, h.ideal, if_true]
    exact ⟨⟨len, rfl⟩, h⟩
  | cons a answers =>
    obtain ⟨n, rfl⟩ := h.spi a (hlist ▸ List.mem_cons_self ..)
    simp only [Env.spiAnswer, Env.afterSpi, hlist, SpiAnswer.clamp]
    exact ⟨⟨_, rfl⟩, h.ideal, h.lines, fun b hb => h.spi b (hlist ▸ List.mem_cons_of_mem _ hb), h.busy⟩

theorem NeverFails.lineWrite_dc (h : NeverFails samples s) (lv : Level) : lineWrite .dc lv s = .ok (sent lv [.dc lv] s) := by
  simp only [lineWrite, Env.lineAnswer, Env.afterLine, h.lines, h.ideal, if_true]
  rfl

/-- What is done about the count of bytes written is at most an event that is no transaction (R33, R113). -/
def OnlyLogs (counted : Nat → State → State) : Prop :=
  ∀ n s, ∃ l, counted n s = { s with hist := s.hist ++ l } ∧ spiCount l = 0 ∧ bytesSent l = []

theorem ignored_onlyLogs : OnlyLogs fun _ s => s := fun _ _ => ⟨[], by rw [List.append_nil], rfl, rfl⟩

theorem logPartial_onlyLogs (requested : Nat) : OnlyLogs (logPartial requested) := by
  intro n s
  unfold logPartial
  split
  · exact ⟨[.partialWrite requested n], rfl, rfl, rfl⟩
  · exact ⟨[], by rw [List.append_nil], rfl, rfl⟩

theorem transaction_delivers (lv : Level) (bytes : List Byte) {counted : Nat → State → State} (hcounted : OnlyLogs counted)
    (h : NeverFails samples s) : Delivers samples lv 1 bytes s (transaction lv bytes counted s) := by
  obtain ⟨⟨n, hn⟩, hafter⟩ := h.spiAnswer bytes.length
  have hanswer : (sent lv [.dc lv] s).env.spiAnswer bytes.length = .ok n := hn
  obtain ⟨l, hl, hcount, hbytes⟩ := hcounted n (spiWrite bytes (sent lv [.dc lv] s))
  have hdone : transaction lv bytes counted s = .ok (counted n (spiWrite bytes (sent lv [.dc lv] s))) := by
    simp only [transaction, h.lineWrite_dc lv, Run.andThen_ok, hanswer]
  refine ⟨_, hdone, ?_⟩
  rw [hl]
  have hplatform : NeverFails samples { spiWrite bytes (sent lv [.dc lv] s) with
    hist := (spiWrite bytes (sent lv [.dc lv] s)).hist ++ l } := ⟨hafter.ideal, hafter.lines, hafter.spi, hafter.busy⟩
  refine ⟨rfl, rfl, hplatform, [.dc lv, .spi bytes (.ok n)] ++ l, ?_, ?_, ?_⟩
  · rw [spiWrite, hanswer]; simp [sent]
  · rw [spiCount_append, hcount]; rfl
  · rw [bytesSent_append, hbytes]; simp [bytesSent]

theorem sendByte_delivers (h : NeverFails samples s) (lv : Level) (b : Byte) : Delivers samples lv 1 [b] s (sendByte lv b s) :=
  transaction_delivers lv [b] ignored_onlyLogs h

theorem sendData_delivers (h : NeverFails samples s) (bytes : List Byte) :
    Delivers samples .high 1 bytes s (sendData Config.hw bytes s) :=
  transaction_delivers .high bytes (logPartial_onlyLogs bytes.length) h

/-! ## Sequences of transactions -/

/-- The parameters of a command: at least one, so that DC is left high. -/
theorem sendParams_delivers (h : NeverFails samples s) (p : Byte) (ps : List Byte) :
    Delivers samples .high (ps.length + 1) (p :: ps) s (sendParams Config.hw (p :: ps) s) := by
  induction ps generalizing p s with
  | nil =>
    obtain ⟨t, ht, hdelivered⟩ := sendByte_delivers h .high p
    exact ⟨t, congrArg (Run.andThen · _) ht, hdelivered⟩
  | cons q ps ih =>
    rw [List.length_cons, Nat.add_comm]
    exact (sendByte_delivers h .high p).andThen fun t ht => ih ht q

/-- The rows of a plane: at least one. -/
theorem sendRows_delivers (h : NeverFails samples s) (row : List Byte) (rows : List (List Byte)) :
    Delivers samples .high (rows.length + 1) (row :: rows).flatten s (sendRows Config.hw (row :: rows) s) := by
  induction rows generalizing row s with
  | nil =>
    obtain ⟨t, ht, hdelivered⟩ := sendData_delivers h row
    rw [List.flatten_singleton]
    exact ⟨t, congrArg (Run.andThen · _) ht, hdelivered⟩
  | cons next rows ih =>
    rw [List.length_cons, Nat.add_comm]
    exact (sendData_delivers h row).andThen fun t ht => ih ht next

theorem sendCommand_delivers (h : NeverFails samples s) (code p : Byte) (ps : List Byte) :
    Delivers samples .high (1 + (ps.length + 1)) (code :: p :: ps) s (sendCommand Config.hw code (p :: ps) s) :=
  (sendByte_delivers h _ code).andThen fun _ ht => sendParams_delivers ht p ps

theorem sendPlane_delivers (h : NeverFails samples s) (code : Byte) {rows : List (List Byte)} (hrows : rows.length = Config.hw.height) :
    Delivers samples .high 301 (code :: rows.flatten) s (sendPlane Config.hw code rows s) := by
  obtain ⟨row, rows, rfl⟩ := List.exists_cons_of_ne_nil (ne_nil_of_length_height hrows)
  have hsum : 301 = 1 + (rows.length + 1) := congrArg (1 + ·) hrows.symm
  rw [hsum]
  exact (sendByte_delivers h _ code).andThen fun _ ht => sendRows_delivers ht row rows

theorem sendFrame_delivers (h : NeverFails samples s) {black red : List (List Byte)} (hblack : black.length = Config.hw.height)
    (hred : red.length = Config.hw.height) :
    Delivers samples .low 603 (frameBytes black red) s (sendFrame Config.hw black red s) :=
  ((sendPlane_delivers h 0x10 hblack).andThen fun _ ht => sendPlane_delivers ht 0x13 hred).andThen
    fun _ ht => sendByte_delivers ht .low 0x12

/-! ## Operations that complete -/

/-- The operation ends in `t` with Ok, nothing in progress, these bytes requested in `n` transactions, DC at `lv` and the lifecycle
value `life`. -/
structure Completes (lv : Level) (life : Life) (n : Nat) (bytes : List Byte) (s t : State) : Prop where
  returns : t.returns = s.returns ++ [.ok]
  pending : t.pending = none
  seq : t.seq = { s.seq with dc := .ofLevel lv, life := life }
  hist : ∃ l, t.hist = s.hist ++ l ∧ spiCount l = n ∧ bytesSent l = bytes

theorem Delivered.completes (h : Delivered samples lv n bytes s t) {life : Life} (hreturns : u.returns = t.returns)
    (hhist : u.hist = t.hist) (hseq : u.seq = { t.seq with life := life }) : Completes lv life n bytes s (giveBack .ok u) where
  returns := by rw [giveBack_returns, hreturns, h.returns]
  pending := rfl
  seq := by rw [giveBack_seq, hseq, h.seq]
  hist := by rw [giveBack_hist, hhist]; exact h.hist

/-- The wait for the ready sample sends nothing (R116). -/
theorem Delivered.waited {k : Nat} (h : Delivered samples lv n bytes s t) :
    Delivered rest lv n bytes s (waited rest (waitEvents k) t) := by
  obtain ⟨l, hl, hn, hb⟩ := h.hist
  refine ⟨h.seq, h.returns, ⟨h.platform.ideal, h.platform.lines, h.platform.spi, rfl⟩, l ++ waitEvents k, ?_, ?_, ?_⟩
  · rw [Machine.waited, hl, List.append_assoc]
  · rw [spiCount_append, hn, spiCount_waitEvents, Nat.add_zero]
  · rw [bytesSent_append, hb, bytesSent_waitEvents, List.append_nil]

theorem thenWait_of_delivers {k : Nat} {r : Run} (h : Delivers (readyAfter k rest) lv n bytes s r) (p : Pending) :
    ∃ t, Delivered rest lv n bytes s t ∧ thenWait Config.hw p r = conclude Config.hw p t := by
  obtain ⟨t, rfl, ht⟩ := h
  exact ⟨_, ht.waited, enterWait_of_ready ht.platform.busy p⟩

/-- An image operation has nothing left to do after the wait, and what is dead then is no part of SEQ (R59). -/
theorem thenWait_completes {k : Nat} {r : Run} (h : Delivers (readyAfter k rest) lv n bytes s r) {op : Waiting}
    (hfirst : op ≠ .firstSequence) (hclose : op ≠ .close) (start : Nat) :
    Completes lv s.seq.life n bytes s (thenWait Config.hw ⟨op, start⟩ r) := by
  obtain ⟨t, ht, hwait⟩ := thenWait_of_delivers h ⟨op, start⟩
  have hend : conclude Config.hw ⟨op, start⟩ t = giveBack .ok (discardFor op t) := by
    cases op
    case firstSequence => exact absurd rfl hfirst
    case close => exact absurd rfl hclose
    all_goals rfl
  have hlife : t.seq.life = s.seq.life := by rw [ht.seq]
  rw [hwait, hend]
  exact ht.completes (discardFor_returns ..) (discardFor_hist ..) (by rw [discardFor_seq, ← hlife])

/-- FIRST_SEQUENCE and CLOSE send a command of one parameter after the wait and move the lifecycle value (R131, R135, R142). -/
theorem thenWait_completes_with_command {k : Nat} {r : Run} (h : Delivers (readyAfter k rest) lv n bytes s r) {p : Pending} {life : Life}
    {code param : Byte}
    (hend : ∀ t, conclude Config.hw p t = settle p.start (setLife life) (sendCommand Config.hw code [param] t)) :
    Completes .high life (n + 2) (bytes ++ [code, param]) s (thenWait Config.hw p r) := by
  obtain ⟨t, ht, hwait⟩ := thenWait_of_delivers h p
  obtain ⟨u, hu, hlast⟩ := sendCommand_delivers ht.platform code param []
  rw [hwait, hend, hu]
  exact (ht.trans hlast).completes rfl rfl rfl

end

/-- PRINT_IMAGE of rasters of the panel's size, once both are encoded (R139). -/
theorem printImage_of_panelSized {r : RasterArg} {red : Option RasterArg} (hr : PanelSized r) (hred : ∀ q, red = some q → PanelSized q)
    (s : State) : printImage Config.hw r red s = thenWait Config.hw ⟨.printImage, s.hist.length⟩
      (sendFrame Config.hw (encodeRaster Config.hw (sample Config.hw r.space s)) (redPlane red s) (planesEncoded r red s)) := by
  simp only [printImage, validateArg_of_panelSized hr, validateOpt_of_panelSized hred]
  rw [← planeRows_black_planesEncoded r red s, ← redRows_planesEncoded r red s]
  rfl

theorem redPlane_length (red : Option RasterArg) (s : State) : (redPlane red s).length = Config.hw.height := by
  cases red with
  | none => exact whitePlane_length _
  | some q => exact encodeRaster_length _ _

/-- The encodes before the frame are no part of SEQ. -/
theorem printImage_completes {k : Nat} {rest : List BusyAnswer} {r : RasterArg} {red : Option RasterArg} {s : State}
    (h : NeverFails (readyAfter k rest) s) (hr : PanelSized r) (hred : ∀ q, red = some q → PanelSized q) :
    Completes .low s.seq.life 603 (frameBytes (encodeRaster Config.hw (sample Config.hw r.space s)) (redPlane red s)) s
      (printImage Config.hw r red s) := by
  have hquiet := planesEncoded_quiet r red s
  have hplatform : NeverFails (readyAfter k rest) (planesEncoded r red s) := by
    constructor <;> rw [hquiet.env]
    exacts [h.ideal, h.lines, h.spi, h.busy]
  have hframe := sendFrame_delivers hplatform (encodeRaster_length _ (sample Config.hw r.space s)) (redPlane_length red s)
  rw [printImage_of_panelSized hr hred]
  obtain ⟨hreturns, hpending, hseq, hhist⟩ := thenWait_completes (op := .printImage) hframe nofun nofun s.hist.length
  rw [hquiet.returns] at hreturns
  rw [planesEncoded_seq] at hseq
  rw [hquiet.hist] at hhist
  exact ⟨hreturns, hpending, hseq, hhist⟩

theorem firstSequence_completes {k : Nat} {rest : List BusyAnswer} {s : State} (h : NeverFails (readyAfter k rest) s) :
    Completes .high .sequenced 7
      [0x06, Config.hw.btstP0, Config.hw.btstP1, Config.hw.btstP2, 0x04, 0x00, Config.hw.psrP0] s (firstSequence Config.hw s) :=
  thenWait_completes_with_command (p := ⟨.firstSequence, _⟩)
    ((sendCommand_delivers h 0x06 Config.hw.btstP0 [Config.hw.btstP1, Config.hw.btstP2]).andThen
      fun _ ht => sendByte_delivers ht .low 0x04) fun _ => rfl

theorem closePanel_completes {k : Nat} {rest : List BusyAnswer} {s : State} (h : NeverFails (readyAfter k rest) s) :
    Completes .high .closed 3 [0x02, 0x07, 0xA5] s (closePanel Config.hw s) :=
  thenWait_completes_with_command (p := ⟨.close, _⟩) (sendByte_delivers h .low 0x02) fun _ => rfl

/-- Settles O35: one case for each operation, each of which completes with its bytes. -/
theorem shortWritesNeverStopASequence : Obligations.ShortWritesNeverStopASequence := by
  unfold Obligations.ShortWritesNeverStopASequence
  intro k rest s r red hidle hideal hlines hspi hsamples hr hred i dc transactions bytes hi hlife
  have h : NeverFails (readyAfter k rest) s := ⟨hideal, hlines, hspi, hsamples⟩
  have done {lv : Level} (hcomplete : Completes lv (lifeAfterOk i s.seq.life) transactions bytes s (meaning i s)) :
      ∃ t l, exec i s = .next t ∧ t.returns = s.returns ++ [.ok] ∧ t.hist = s.hist ++ l ∧ t.pending = none ∧
        t.seq = { s.seq with dc := .ofLevel lv, life := lifeAfterOk i s.seq.life } ∧ spiCount l = transactions ∧
        bytesSent l = bytes := by
    obtain ⟨l, hhist, hcount, hbytes⟩ := hcomplete.hist
    exact ⟨_, l, exec_admitted hidle hlife, hcomplete.returns, hhist, hcomplete.pending, hcomplete.seq, hcount, hbytes⟩
  simp only [List.mem_cons, Prod.mk.injEq, List.not_mem_nil, or_false] at hi
  rcases hi with ⟨rfl, rfl, rfl, rfl⟩ | ⟨rfl, rfl, rfl, rfl⟩ | ⟨rfl, rfl, rfl, rfl⟩ | ⟨rfl, rfl, rfl, rfl⟩ | ⟨rfl, rfl, rfl, rfl⟩
  · exact done (firstSequence_completes h)
  · rw [← whitePlane_eq] at done ⊢
    exact done (thenWait_completes (op := .clearDisplay) (sendFrame_delivers h (whitePlane_length _) (whitePlane_length _))
      nofun nofun _)
  · rw [← tricolorBlack_eq, ← tricolorRed_eq] at done ⊢
    exact done (thenWait_completes (op := .printTricolor) (sendFrame_delivers h (stripePlane_length _ _) (stripePlane_length _ _))
      nofun nofun _)
  · have hcomplete := printImage_completes h hr hred
    cases red <;> exact done hcomplete
  · exact done (closePanel_completes h)

end Sys2Proof.Machine
end

section
/-! PROOFS. The block at construction, without its resources, and in the first wait of FIRST_SEQUENCE (70_reset_and_hazards.md). -/
namespace Sys2Proof.Machine

/-- Settles O56: each field of the state at construction is written out there (R37, R172). -/
theorem constructionState : Obligations.ConstructionState := by
  unfold Obligations.ConstructionState
  exact ⟨rfl, rfl, rfl, rfl, rfl, rfl, rfl, rfl⟩

/-- Steps that were sent on the ideal platform, then a wait in which all samples read busy (R117). -/
theorem thenWait_of_sent_busy {k : Nat} {s : State} {r : Run} {lv : Level} {l : List Event} (hsent : r = .ok (sent lv l s))
    (hsamples : s.env.busySamples = busySamples k) (p : Pending) :
    thenWait Config.hw p r = keepWaiting p (waited [] (busyEvents k) (sent lv l s)) := by
  have hbusy : (sent lv l s).env.busySamples = busySamples k := hsamples
  rw [hsent, thenWait, enterWait_of_busy hbusy]

/-- Settles O28: the commands before the wait are sent (`sendPowerUp_ideal`), and the wait is not left (R135, R178). -/
theorem nothingIsSentBeforePowerOnWaitEnds : Obligations.NothingIsSentBeforePowerOnWaitEnds := by
  unfold Obligations.NothingIsSentBeforePowerOnWaitEnds
  intro k s hidle hlife hideal hsamples
  have hexec : exec .firstSequence s = .next (firstSequence Config.hw s) :=
    exec_admitted hidle (hlife ▸ List.mem_singleton_self _)
  have hwait : firstSequence Config.hw s = _ := thenWait_of_sent_busy (sendPowerUp_ideal hideal) hsamples _
  rw [hexec, hwait]
  simp only [keepWaiting, waited, sent, LastLevel.ofLevel, List.append_assoc]

/-- Without the resources every instruction but ENCODE_PLANE is refused, INITIALIZE in UNUSABLE too (R132, R157). -/
theorem exec_refused_withoutResources {i : Instr} {s : State} (h : WithoutResources s.seq.life)
    (hinit : i ≠ .initialise ∨ s.seq.life = .unusable) (henc : ∀ r, i ≠ .encodePlane r) : exec i s = .next (refuse s) := by
  refine exec_refused fun ⟨_, hadmitted⟩ => ?_
  rcases admitted_withoutResources h hadmitted with rfl | ⟨r, rfl⟩
  · rcases hinit with hother | hunusable
    · exact hother rfl
    · rw [hunusable] at hadmitted
      exact absurd hadmitted (by decide)
  · exact henc r rfl

/-- Without the resources no instruction, admitted or refused, drives a line, samples one, sends a byte or waits (R185). -/
theorem exec_noTraffic {i : Instr} {s t : State} (h : WithoutResources s.seq.life) (hexec : exec i s = .next t) : NoTraffic s t := by
  by_cases hadmitted : Idle s ∧ s.seq.life ∈ admittedIn i
  · rw [exec_admitted hadmitted.1 hadmitted.2] at hexec; cases hexec
    exact meaning_noTraffic h hadmitted.2
  · rw [exec_refused hadmitted] at hexec; cases hexec
    exact ⟨rfl, rfl, [], (List.append_nil _).symm, rfl⟩

/-- Settles O43: by `exec_refused_withoutResources` and `exec_noTraffic`. -/
theorem nothingIsDrivenWithoutTheResources : Obligations.NothingIsDrivenWithoutTheResources := by
  unfold Obligations.NothingIsDrivenWithoutTheResources
  intro i s hlife
  refine ⟨exec_refused_withoutResources hlife, fun t hexec => ?_⟩
  obtain ⟨hdc, hrst, l, hhist, hquiet⟩ := exec_noTraffic hlife hexec
  exact ⟨l, hhist, by simpa using hquiet, hdc, hrst⟩

end Sys2Proof.Machine
end
